-- ==== Sys2Proof/Word.lean ====
section
/-! DEFINITION. The word types of the TWINE engine (spec/00_scope.md R6, R9; spec/10_state.md R10). -/

namespace Sys2Proof

/-- An unsigned 4-bit value (R9, R26). -/
abbrev Nibble := BitVec 4

/-- An unsigned 8-bit value (R9). -/
abbrev Byte := BitVec 8

/-- A register address 0x00..0x3F (R40, R41). -/
abbrev Addr := BitVec 6

/-- A bus word of format BUS15 (R60). -/
abbrev BusWord := BitVec 15

/-- A block outside the datapath: 8 bytes, byte 0 first (R43). -/
abbrev Block := Vector Byte 8

/-- A block inside the datapath: 16 nibbles, the high nibble of byte 0 first (R11, R44). -/
abbrev Nibbles16 := Vector Nibble 16

/-- The working-key register: 32 nibbles (R12). -/
abbrev WorkKey := Vector Nibble 32

/-- One round key: 8 nibbles, one a lane (R13). -/
abbrev RoundKey := Vector Nibble 8

/-- The round-key store. Row `i` of the spec, 1..36, is the element at index `i - 1`; there is no row 0 (R8, R13). -/
abbrev RoundKeys := Vector RoundKey 36

end Sys2Proof
end

