-- ==== Sys2Proof/Config.lean ====
section
/-! DEFINITION. What an implementation fixes and what the spec leaves free: opaque constants without a body, so that
no proof can see a value and every claim holds for every value (spec/00_scope.md R7, spec/10_state.md R28). -/

namespace Sys2Proof

/-- The two datapaths of R7. They differ in latency only (R124). -/
inductive Datapath
  | parallel
  | serial
  deriving DecidableEq, Repr, Inhabited

namespace Config

/-- `DATAPATH` of R7. No rule reads it: a computed value never depends on it (R124; log entry 7). -/
opaque datapath : Datapath

/-- `LAT_KEYEXP80` of R7: cycles from acceptance of KEYEXP with KEYLEN = 10 to its completion, at least 1. -/
opaque latKeyexp80 : ℕ+

/-- `LAT_KEYEXP128` of R7, the same with KEYLEN = 16, at least 1. -/
opaque latKeyexp128 : ℕ+

/-- `LAT_ENC` of R7, at least 1. -/
opaque latEnc : ℕ+

/-- `LAT_DEC` of R7, at least 1. -/
opaque latDec : ℕ+

/-- FREE VALUE. The contents of `RK` after the `n`-th reset cycle of a run: unspecified by R29 and R173
("any value"; log entry 2). -/
opaque rkAfterReset : Nat → RoundKeys

end Config

end Sys2Proof
end

