-- ==== Sys2Proof/Machine/Tables.lean ====
section
/-! DEFINITION. The four read-only memories (spec/40_constant_tables.md R80 to R83, R89; spec/10_state.md R25). -/

namespace Sys2Proof.Machine

/-- `SBOX` (R80). -/
def sboxRom : Vector Nibble 16 :=
  #v[0xC, 0x0, 0xF, 0xA, 0x2, 0xB, 0x9, 0x5, 0x8, 0x3, 0xD, 0x7, 0x1, 0xE, 0x6, 0x4]

/-- `SHUF`: indexed by the source position, gives the destination position (R81). -/
def shufRom : Vector (Fin 16) 16 :=
  #v[5, 0, 1, 4, 7, 12, 3, 8, 13, 6, 9, 2, 15, 10, 11, 14]

/-- `SHUFINV`, used in the same direction (R82). -/
def shufinvRom : Vector (Fin 16) 16 :=
  #v[1, 2, 11, 6, 3, 0, 9, 4, 7, 10, 13, 14, 5, 8, 15, 12]

/-- `RCON[1..35]`; `RCON[i]` is the element at index `i - 1` (R83; spec/90_conflicts.md C1, C2). -/
def rconRom : Vector (BitVec 6) 35 :=
  #v[0x01, 0x02, 0x04, 0x08, 0x10, 0x20, 0x03, 0x06, 0x0C, 0x18, 0x30, 0x23,
     0x05, 0x0A, 0x14, 0x28, 0x13, 0x26, 0x0F, 0x1E, 0x3C, 0x3B, 0x35, 0x29,
     0x11, 0x22, 0x07, 0x0E, 0x1C, 0x38, 0x33, 0x25, 0x09, 0x12, 0x24]

/-- An S-box lookup; the index is always a nibble (R89). -/
def sbox (v : Nibble) : Nibble :=
  sboxRom[v.toNat]'v.isLt

end Sys2Proof.Machine
end

