-- ==== Sys2Proof/Machine/Primitives.lean ====
section
/-! DEFINITION. Packing, unpacking and the two round primitives (spec/40_constant_tables.md R84 to R87). -/

namespace Sys2Proof.Machine

/-- The high nibble of a byte, `b >> 4` (R84). -/
def hiNibble (b : Byte) : Nibble := b.extractLsb' 4 4

/-- The low nibble of a byte, `b & 0xF` (R84). -/
def loNibble (b : Byte) : Nibble := b.extractLsb' 0 4

/-- `Unpack`: nibble `2k` is the high nibble of byte `k`, nibble `2k + 1` its low one (R84, R44). -/
def unpack {n : Nat} (b : Vector Byte n) : Vector Nibble (2 * n) :=
  Vector.ofFn fun i =>
    if i.val % 2 = 0 then hiNibble (b[i.val / 2]'(by omega)) else loNibble (b[i.val / 2]'(by omega))

/-- `Pack`: byte `k` is `N[2k] || N[2k + 1]` (R85). -/
def pack (x : Nibbles16) : Block :=
  Vector.ofFn fun k => x[2 * k.val] ++ x[2 * k.val + 1]

/-- What the odd position of lane `j` becomes: `X[2j+1] ^ SBOX[X[2j] ^ K[j]]` (R86). -/
def laneOut (x : Nibbles16) (k : RoundKey) (j : Fin 8) : Nibble :=
  x[2 * j.val + 1] ^^^ sbox (x[2 * j.val] ^^^ k[j.val])

/-- `FeistelStep`, all eight lanes at once: even positions pass through, odd positions receive the XOR (R86). -/
def feistelStep (x : Nibbles16) (k : RoundKey) : Nibbles16 :=
  Vector.ofFn fun i => if i.val % 2 = 0 then x[i.val] else laneOut x k ⟨i.val / 2, by omega⟩

/-- One lane alone: it writes `X[2j + 1]` only (R124). -/
def feistelLane (k : RoundKey) (x : Nibbles16) (j : Fin 8) : Nibbles16 :=
  x.set (2 * j.val + 1) (laneOut x k j)

/-- The lanes one after another, in the order given (R124, `DATAPATH = SERIAL`). -/
def feistelSerial (order : List (Fin 8)) (x : Nibbles16) (k : RoundKey) : Nibbles16 :=
  order.foldl (feistelLane k) x

/-- The step as each datapath of R7 evaluates it. R124: "a model computes `Encrypt` and `Decrypt` once, without
modelling the datapath", so the commands use `feistelStep`. -/
def feistelOn (d : Datapath) (x : Nibbles16) (k : RoundKey) : Nibbles16 :=
  match d with
  | .parallel => feistelStep x k
  | .serial => feistelSerial (List.finRange 8) x k

/-- `Permute`: for `h` in 0..15, `Y[T[h]] = X[h]`, every `X[h]` read from the old block (R87). Where `T` is one of the
two tables every position of `Y` is written, so the zeros `Y` starts from are never seen. -/
def permute (t : Vector (Fin 16) 16) (x : Nibbles16) : Nibbles16 :=
  (List.finRange 16).foldl
    (fun (y : Nibbles16) (h : Fin 16) => y.set (t[h.val]).val x[h.val] (t[h.val]).isLt)
    (Vector.replicate 16 0)

end Sys2Proof.Machine
end

