-- ==== Sys2Proof/Machine/BlockTransform.lean ====
section
/-! DEFINITION. The two block transforms (spec/42_block_transform.md R122, R123, R128). -/

namespace Sys2Proof.Machine

/-- The rounds of `Encrypt` on nibbles: rounds 1 to 35 are a step and a permutation with `SHUF`, round 36 is a step
only (R122). -/
def encryptNibbles (rk : RoundKeys) (x : Nibbles16) : Nibbles16 :=
  feistelStep ((rk.toList.take 35).foldl (fun y k => permute shufRom (feistelStep y k)) x) rk[35]

/-- The rounds of `Decrypt` on nibbles: rounds 36 down to 2 are a step and a permutation with `SHUFINV`, round 1 is a
step only (R123). -/
def decryptNibbles (rk : RoundKeys) (x : Nibbles16) : Nibbles16 :=
  feistelStep ((rk.toList.drop 1).reverse.foldl (fun y k => permute shufinvRom (feistelStep y k)) x) rk[0]

/-- `Encrypt(RK, B)` (R122). -/
def encrypt (rk : RoundKeys) (b : Block) : Block :=
  pack (encryptNibbles rk (unpack b))

/-- `Decrypt(RK, B)` (R123). -/
def decrypt (rk : RoundKeys) (b : Block) : Block :=
  pack (decryptNibbles rk (unpack b))

end Sys2Proof.Machine
end

