-- ==== Sys2Proof/Syntax.lean ====
section
/-! DEFINITION. The syntax of everything a host can say to the engine: the six rows of spec/opcode_table.json, the
register names of spec/20_memory.md R41, the input ports of R40 and the lines of a host program
(spec/30_encoding.md R72). -/

namespace Sys2Proof

/-- One constructor per row of spec/opcode_table.json (R62). -/
inductive Instr
  /-- `WR a, v`: host write of one byte (R140). -/
  | wr (addr : Addr) (wdata : Byte)
  /-- `RD a`: host read of one byte (R141). -/
  | rd (addr : Addr)
  /-- `NOP`, command byte 0x00 (R142). -/
  | nop
  /-- `KEYEXP`, command byte 0x01 (R100). -/
  | keyexp
  /-- `ENC`, command byte 0x02 (R120). -/
  | enc
  /-- `DEC`, command byte 0x03 (R121). -/
  | dec
  deriving DecidableEq, Repr

/-- What a register address names (the map of R41; symbolic names R71). -/
inductive Reg
  | key (k : Fin 16)
  | din (k : Fin 8)
  | dout (k : Fin 8)
  | cmd
  | status
  | keylen
  | errlen
  | blksize
  /-- The reserved address 0x25 + k (R50). -/
  | reserved (k : Fin 27)
  deriving DecidableEq, Repr

/-- The values of the input ports at one rising clock edge (R40, R181). -/
structure Ports where
  rst : Bool
  sel : Bool
  we : Bool
  addr : Addr
  wdata : Byte
  deriving DecidableEq, Repr

/-- One line of a host program (R72), with the `RESET` cycle of the listings in spec/95_test_vectors.md. -/
inductive HostLine
  | reset
  | idle
  | wr (addr : Addr) (wdata : Byte)
  | rd (addr : Addr)
  | nop
  | keyexp
  | enc
  | dec
  | poll
  | ldkey (bytes : List Byte)
  | ldblk (bytes : List Byte)
  | rdblk
  deriving DecidableEq, Repr

end Sys2Proof
end

