-- ==== Sys2Proof/Machine/State.lean ====
section
/-! DEFINITION. The state of the engine (spec/10_state.md R10, "and nothing else", and three fields of the model's
own), the outcomes a step may have, and the state after reset (R29). -/

namespace Sys2Proof.Machine

/-- The command in flight (R23). -/
inductive Op
  | idle
  | keyexp80
  | keyexp128
  | enc
  | dec
  deriving DecidableEq, Repr

/-- What a check of a command raises, with the value it carries (R150, R151). It is no fault of the machine: it is an
outcome the host reads in `STATUS.ERR`, and the engine goes on. -/
inductive CmdError
  | invalidKeySize (length : Byte)
  | noKey
  | illegalCmd
  | busyViolation
  deriving DecidableEq, Repr

/-- Reasons the machine stops with a fault. There is none: "Nothing in this engine is `stuck`" and nothing is a fault
(spec/93_implementation_defined.md part 2; spec/60_exceptions.md R156), so no one raises one. Safe. -/
inductive Fault
  deriving DecidableEq, Repr

/-- Reasons an instruction has no meaning. -/
inductive Refusal
  /-- The instruction has no meaning in this model. Raised by an arm of `exec` that names it; no arm does. Safe. -/
  | notModelled (mnemonic : String)
  deriving DecidableEq, Repr

/-- The state of R10. The last three fields are the model's own. -/
structure State where
  /-- `RK[1..36][0..7]` (R13). -/
  rk : RoundKeys
  /-- `WK[0..31]` (R12). -/
  wk : WorkKey
  /-- `X[0..15]` (R11). -/
  x : Nibbles16
  /-- `KEY[0..15]` (R14). -/
  key : Vector Byte 16
  /-- `KEYLEN` (R15). -/
  keylen : Byte
  /-- `DIN[0..7]` (R16). -/
  din : Block
  /-- `DOUT[0..7]` (R17). -/
  dout : Block
  /-- `STATUS.KEYVALID` (R19). -/
  keyvalid : Bool
  /-- `STATUS.KEYSIZE`: false for an 80-bit instance, true for a 128-bit one (R19, R22). -/
  keysize : Bool
  /-- `STATUS.DVALID` (R19). -/
  dvalid : Bool
  /-- `STATUS.ERR` (R19, R150). -/
  err : BitVec 3
  /-- `ERRLEN` (R20). -/
  errlen : Byte
  /-- `OP` (R23). `STATUS.BUSY` is not separate storage. -/
  op : Op
  /-- `CNT` (R23): clock cycles left before the command in flight completes (log entry 3). -/
  cnt : Nat
  /-- The output port `rdata` in the cycle just performed (R40; log entry 6). -/
  rdata : Byte
  /-- The host's coming cycles, the next one first; when it is empty the host does nothing (log entry 4). -/
  inputs : List Ports
  /-- How many free values reset cycles have drawn for `RK` (log entry 2). -/
  freeCtr : Nat
  deriving DecidableEq, Repr

/-- The outcome of a step or a meaning. -/
abbrev Result := Host.Outcome State Fault Refusal

/-- The machine right after reset (R29). `rk` is unspecified there: zero is this model's choice (log entry 1). -/
def State.reset : State where
  rk := Vector.replicate 36 (Vector.replicate 8 0)
  wk := Vector.replicate 32 0
  x := Vector.replicate 16 0
  key := Vector.replicate 16 0
  keylen := 0
  din := Vector.replicate 8 0
  dout := Vector.replicate 8 0
  keyvalid := false
  keysize := false
  dvalid := false
  err := 0
  errlen := 0
  op := .idle
  cnt := 0
  rdata := 0
  inputs := []
  freeCtr := 0

end Sys2Proof.Machine
end

