-- ==== Sys2Proof/Machine/Flags.lean ====
section
/-! DEFINITION. The fields of `STATUS` (spec/10_state.md R19, R23) and the outcome codes (spec/60_exceptions.md
R150). The engine has no arithmetic flags (spec/40_constant_tables.md R88). -/

namespace Sys2Proof.Machine

/-- `STATUS.BUSY`: 1 exactly when `OP != IDLE` (R19, R23). -/
def busy (s : State) : Bool := decide (s.op ≠ .idle)

/-- The code of an accepted command or a NOP (R150). -/
def codeOk : BitVec 3 := 0

/-- The code a refusal leaves in `STATUS.ERR` (R150). -/
def errCode : CmdError → BitVec 3
  | .invalidKeySize _ => 1
  | .noKey => 2
  | .illegalCmd => 3
  | .busyViolation => 4

/-- `STATUS` as it is read: `0 || ERR[2:0] || DVALID || KEYSIZE || KEYVALID || BUSY` (R19). -/
def statusByte (s : State) : Byte :=
  (0 : BitVec 1) ++ s.err ++ BitVec.ofBool s.dvalid ++ BitVec.ofBool s.keysize ++ BitVec.ofBool s.keyvalid
    ++ BitVec.ofBool (busy s)

/-- The field `ERR` of a `STATUS` byte that was read, bits 6:4 (R19). -/
def statusErr (status : Byte) : BitVec 3 := status.extractLsb' 4 3

end Sys2Proof.Machine
end

