-- ==== Sys2Proof/WellFormed.lean ====
section
/-! DEFINITION. Well-formedness. The operands of an instruction are typed by their width, so every term of `Instr`
is an instruction of the spec (spec/30_encoding.md R63: "Among bus words every 15-bit value is legal"). The lines of
a host program carry lists of bytes, and R72 bounds their length: those are the checks. -/

namespace Sys2Proof

/-- Every instruction term is well formed: its fields have exactly the widths of R60 and R61. One arm a constructor,
so that a new operand form cannot slip past. -/
def Instr.wf : Instr → Bool
  | .wr _ _ => true
  | .rd _ => true
  | .nop => true
  | .keyexp => true
  | .enc => true
  | .dec => true

/-- R72: `LDKEY` takes at most 255 bytes (`KEYLEN` is one byte) and `LDBLK` takes exactly 8. -/
def HostLine.wf : HostLine → Bool
  | .ldkey bytes => decide (bytes.length ≤ 255)
  | .ldblk bytes => decide (bytes.length = 8)
  | .reset | .idle | .wr _ _ | .rd _ | .nop | .keyexp | .enc | .dec | .poll | .rdblk => true

end Sys2Proof
end

