-- ==== Sys2Proof/Decode.lean ====
section
/-! DEFINITION. The decoder, total and refusing by name, and the encoder, both from spec/30_encoding.md R60 to R63. -/

namespace Sys2Proof

/-- An encoded instruction, in one of the two formats: a bus word on the ports (BUS15, R60) or a command byte written
to `CMD` (CMD8, R61). -/
inductive Code
  | bus (w : BusWord)
  | cmd (b : Byte)
  deriving DecidableEq, Repr

/-- Why something is no instruction. -/
inductive DecodeError
  /-- A command byte 0x04..0xFF (R63). -/
  | illegalCommand (b : Byte)
  /-- Two bytes whose bit 15 is set: a bus word has 15 bits (R60). -/
  | notABusWord (lo hi : Byte)
  /-- Neither one byte (CMD8) nor two (BUS15): R70. -/
  | wrongLength (n : Nat)
  deriving DecidableEq, Repr

/-- R60: `word = we << 14 | addr << 8 | wdata`. -/
def joinBus (we : Bool) (addr : Addr) (wdata : Byte) : BusWord :=
  BitVec.ofBool we ++ addr ++ wdata

/-- The bus word on the ports in a cycle (R60: the three ports side by side). -/
def portsWord (p : Ports) : BusWord :=
  joinBus p.we p.addr p.wdata

/-- Field `we`, bit 14 (R60). -/
def fieldWe (w : BusWord) : Bool := w.getLsbD 14

/-- Field `addr`, bits 13:8 (R60). -/
def fieldAddr (w : BusWord) : Addr := w.extractLsb' 8 6

/-- Field `wdata`, bits 7:0 (R60). -/
def fieldWdata (w : BusWord) : Byte := w.extractLsb' 0 8

/-- R62: bit 14 tells `WR` from `RD`; `RD` ignores `wdata`. Every 15-bit word is legal (R63). -/
def decodeBus (w : BusWord) : Instr :=
  if fieldWe w then .wr (fieldAddr w) (fieldWdata w) else .rd (fieldAddr w)

/-- R61, R62, R63: bits 7:3 must be zero and bits 2:0 name the command; every other byte is illegal. -/
def decodeCmd (b : Byte) : Except DecodeError Instr :=
  if b.extractLsb' 3 5 ≠ 0 then .error (.illegalCommand b)
  else if b.extractLsb' 0 3 = 0 then .ok .nop
  else if b.extractLsb' 0 3 = 1 then .ok .keyexp
  else if b.extractLsb' 0 3 = 2 then .ok .enc
  else if b.extractLsb' 0 3 = 3 then .ok .dec
  else .error (.illegalCommand b)

/-- The decoder. -/
def decode : Code → Except DecodeError Instr
  | .bus w => .ok (decodeBus w)
  | .cmd b => decodeCmd b

/-- The register address of `CMD` (R41). -/
def cmdAddr : Addr := 0x20

/-- The encoder, from the patterns of R62; `RD` has its ignored byte written as 0x00 (R60). -/
def encode : Instr → Code
  | .wr a v => .bus (joinBus true a v)
  | .rd a => .bus (joinBus false a 0)
  | .nop => .cmd 0x00
  | .keyexp => .cmd 0x01
  | .enc => .cmd 0x02
  | .dec => .cmd 0x03

/-- The bus word by which the host issues an encoded instruction: a command is issued by `WR 0x20, <command byte>`
(R62). -/
def codeWord : Code → BusWord
  | .bus w => w
  | .cmd b => joinBus true cmdAddr b

/-- The bus word of an instruction (R62). -/
def busWord (i : Instr) : BusWord := codeWord (encode i)

/-- One row of spec/opcode_table.json: the row's instruction word is `pattern` under `mask`. -/
structure OpcodeRow where
  mnemonic : String
  code : Code
  mask : Code
  deriving DecidableEq, Repr

/-- The row of the opcode table an instruction belongs to: `code` is its "match", `mask` its "mask". -/
def opcodeRow : Instr → OpcodeRow
  | .wr _ _ => ⟨"WR", .bus 0x4000, .bus 0x4000⟩
  | .rd _ => ⟨"RD", .bus 0x0000, .bus 0x4000⟩
  | .nop => ⟨"NOP", .cmd 0x00, .cmd 0xFF⟩
  | .keyexp => ⟨"KEYEXP", .cmd 0x01, .cmd 0xFF⟩
  | .enc => ⟨"ENC", .cmd 0x02, .cmd 0xFF⟩
  | .dec => ⟨"DEC", .cmd 0x03, .cmd 0xFF⟩

/-- A code lies in a row: the same format, and equal to the row's match under its mask. -/
def rowMatches (r : OpcodeRow) : Code → Bool
  | .bus w =>
    match r.mask, r.code with
    | .bus m, .bus v => w &&& m == v
    | _, _ => false
  | .cmd b =>
    match r.mask, r.code with
    | .cmd m, .cmd v => b &&& m == v
    | _, _ => false

/-- Bytes to a code: one byte is a command byte; two bytes are a bus word, bits 7:0 in the first byte (log entry 8). -/
def codeOfBytes : List Byte → Except DecodeError Code
  | [b] => .ok (.cmd b)
  | [lo, hi] => if hi.getLsbD 7 then .error (.notABusWord lo hi) else .ok (.bus ((hi ++ lo).setWidth 15))
  | bs => .error (.wrongLength bs.length)

/-- The bytes of the table's number `w` of `nbits` bits, bits 7:0 first. -/
def tableBytes (nbits w : Nat) : List Byte :=
  (List.range ((nbits + 7) / 8)).map fun k => BitVec.ofNat 8 (w / 2 ^ (8 * k))

/-- The code that the table's number `w` of `nbits` bits stands for. -/
def tableCode (nbits w : Nat) : Except DecodeError Code :=
  codeOfBytes (tableBytes nbits w)

/-- The instruction the decoder reads from the table's number `w` of `nbits` bits. -/
def decodeTableWord (nbits w : Nat) : Option Instr :=
  match tableCode nbits w with
  | .ok c => (decode c).toOption
  | .error _ => none

end Sys2Proof
end

