-- ==== Sys2Proof/Machine/KeySchedule.lean ====
section
/-! DEFINITION. The two key schedules (spec/41_key_expansion.md R103 to R106, R109; spec/30_encoding.md R65). -/

namespace Sys2Proof.Machine

/-- The high half of a round constant, `c >> 3`, as a nibble (R65). -/
def rconHi (c : BitVec 6) : Nibble := (c.extractLsb' 3 3).setWidth 4

/-- The low half of a round constant, `c & 7`, as a nibble (R65). -/
def rconLo (c : BitVec 6) : Nibble := (c.extractLsb' 0 3).setWidth 4

/-- Phase 3, for both schedules: `WK[7] ^= c >> 3`, `WK[19] ^= c & 7` (R103, R104). -/
def inject {n : Nat} (hn : 20 ≤ n) (w : Vector Nibble n) (c : BitVec 6) : Vector Nibble n :=
  let w := w.set 7 (w[7] ^^^ rconHi c)
  w.set 19 (w[19] ^^^ rconLo c)

/-- Phase 4, the rotation with a twist in the form without a loop (R106). -/
def rotate {n : Nat} (hn : 20 ≤ n) (w : Vector Nibble n) : Vector Nibble n :=
  Vector.ofFn fun p =>
    if h : p.val + 4 < n then w[p.val + 4]
    else if p.val + 4 = n then w[1]
    else if p.val + 3 = n then w[2]
    else if p.val + 2 = n then w[3]
    else w[0]

/-- Phase 4 as R103 and R104 write it: save `t0..t3`, copy `WK[q] <- WK[q + 4]` in place for ascending `q`, then write
the last four. The schedules use `rotate`; R106 says the two agree. -/
def rotateLoop {n : Nat} (hn : 20 ≤ n) (w : Vector Nibble n) : Vector Nibble n :=
  let copied := (List.range (n - 4)).foldl
    (fun (v : Vector Nibble n) q => if h : q + 4 < n then v.set q v[q + 4] else v) w
  let v := copied.set (n - 4) w[1]
  let v := v.set (n - 3) w[2]
  let v := v.set (n - 2) w[3]
  v.set (n - 1) w[0]

/-- The tap of the 80-bit schedule, positions (1, 3, 4, 6, 13, 14, 15, 16) in that order (R103). -/
def tap80 (w : Vector Nibble 20) : RoundKey :=
  #v[w[1], w[3], w[4], w[6], w[13], w[14], w[15], w[16]]

/-- Phase 2 of the 80-bit schedule (R103). -/
def mix80 (w : Vector Nibble 20) : Vector Nibble 20 :=
  let w := w.set 1 (w[1] ^^^ sbox w[0])
  w.set 4 (w[4] ^^^ sbox w[16])

/-- One update of the 80-bit schedule: mix, constant, rotation (R103, R105). -/
def update80 (w : Vector Nibble 20) (c : BitVec 6) : Vector Nibble 20 :=
  rotate (by decide) (inject (by decide) (mix80 w) c)

/-- The tap of the 128-bit schedule, positions (2, 3, 12, 15, 17, 18, 28, 31) in that order (R104). -/
def tap128 (w : WorkKey) : RoundKey :=
  #v[w[2], w[3], w[12], w[15], w[17], w[18], w[28], w[31]]

/-- Phase 2 of the 128-bit schedule, with the third mix (R104). -/
def mix128 (w : WorkKey) : WorkKey :=
  let w := w.set 1 (w[1] ^^^ sbox w[0])
  let w := w.set 4 (w[4] ^^^ sbox w[16])
  w.set 23 (w[23] ^^^ sbox w[30])

/-- One update of the 128-bit schedule (R104, R105). -/
def update128 (w : WorkKey) (c : BitVec 6) : WorkKey :=
  rotate (by decide) (inject (by decide) (mix128 w) c)

/-- The working register after `k` updates, with `RCON[1]`, …, `RCON[k]` in this order. -/
def afterUpdates {α : Type} (update : α → BitVec 6 → α) (k : Nat) (w : α) : α :=
  (rconRom.toList.take k).foldl update w

/-- A whole schedule: row `i` of 1..36 is tapped after `i - 1` updates, so there are 36 taps and 35 updates
(R103, R104). -/
def schedule {α : Type} (tap : α → RoundKey) (update : α → BitVec 6 → α) (w : α) : RoundKeys :=
  Vector.ofFn fun i => tap (afterUpdates update i.val w)

/-- `KS80` from the loaded working register `WK[0..19]` (R103). -/
def schedule80 (w : Vector Nibble 20) : RoundKeys := schedule tap80 update80 w

/-- `KS128` from the loaded working register `WK[0..31]` (R104). -/
def schedule128 (w : WorkKey) : RoundKeys := schedule tap128 update128 w

/-- `KS80(key)` (R103). -/
def ks80 (key : Vector Byte 10) : RoundKeys := schedule80 (unpack key)

/-- `KS128(key)` (R104). -/
def ks128 (key : Vector Byte 16) : RoundKeys := schedule128 (unpack key)

end Sys2Proof.Machine
end

