-- ==== Sys2Proof/Machine/Operands.lean ====
section
/-! DEFINITION. The operand forms: the absolute register address of `WR` and `RD` (spec/20_memory.md R41) and the
implicit operands of the commands (spec/30_encoding.md R64), read in the accept cycle (R49). -/

namespace Sys2Proof.Machine

/-- The address map (R41): `KEY` 0x00..0x0F, `DIN` 0x10..0x17, `DOUT` 0x18..0x1F, `CMD` 0x20, `STATUS` 0x21,
`KEYLEN` 0x22, `ERRLEN` 0x23, `BLKSIZE` 0x24, reserved 0x25..0x3F. -/
def regAt (a : Addr) : Reg :=
  if h0 : a.toNat < 0x10 then .key ⟨a.toNat, h0⟩
  else if h1 : a.toNat < 0x18 then .din ⟨a.toNat - 0x10, by omega⟩
  else if h2 : a.toNat < 0x20 then .dout ⟨a.toNat - 0x18, by omega⟩
  else if h3 : a.toNat < 0x25 then
    if a.toNat = 0x20 then .cmd
    else if a.toNat = 0x21 then .status
    else if a.toNat = 0x22 then .keylen
    else if a.toNat = 0x23 then .errlen
    else .blksize
  else .reserved ⟨a.toNat - 0x25, by omega⟩

/-- The address of a register: base + k (R41, R43, R71). -/
def addrOf : Reg → Addr
  | .key k => BitVec.ofNat 6 k.val
  | .din k => BitVec.ofNat 6 (0x10 + k.val)
  | .dout k => BitVec.ofNat 6 (0x18 + k.val)
  | .cmd => 0x20
  | .status => 0x21
  | .keylen => 0x22
  | .errlen => 0x23
  | .blksize => 0x24
  | .reserved k => BitVec.ofNat 6 (0x25 + k.val)

/-- `KEY[0..9]`, the key bytes an 80-bit KEYEXP reads; `KEY[10..15]` are ignored (R14). -/
def keyBytes80 (key : Vector Byte 16) : Vector Byte 10 :=
  Vector.ofFn fun k => key[k.val]

/-- What an 80-bit KEYEXP loads: `WK[0..19] <- Unpack(KEY[0..9])`, `WK[20..31] <- 0` (R100, R64). -/
def loadWk80 (key : Vector Byte 16) : WorkKey :=
  Vector.ofFn fun i => if h : i.val < 20 then (unpack (keyBytes80 key))[i.val] else 0

/-- What a 128-bit KEYEXP loads: `WK[0..31] <- Unpack(KEY[0..15])` (R100, R64). -/
def loadWk128 (key : Vector Byte 16) : WorkKey := unpack key

/-- `WK[0..19]`, the part of the register the 80-bit schedule uses (R12, R103). -/
def wkLow (w : WorkKey) : Vector Nibble 20 :=
  Vector.ofFn fun i => w[i.val]

/-- What ENC and DEC load: `X[0..15] <- Unpack(DIN[0..7])` (R64, R120). -/
def loadX (din : Block) : Nibbles16 := unpack din

end Sys2Proof.Machine
end

