-- ==== Sys2Proof/Machine/Ops.lean ====
section
/-! DEFINITION. The named operations over the registers, shared by the meanings: reading and writing a register,
refusing and accepting a command, the engine's tick and reset. -/

namespace Sys2Proof.Machine

/-- A read of one register address (R141). It changes nothing (R46). -/
def readReg (s : State) (a : Addr) : Byte :=
  match regAt a with
  | .key k => s.key[k.val]
  | .din k => s.din[k.val]
  | .dout k => s.dout[k.val]
  | .cmd => 0x00
  | .status => statusByte s
  | .keylen => s.keylen
  | .errlen => s.errlen
  | .blksize => 0x08
  | .reserved _ => 0x00

/-- A write of one byte to a register address other than `CMD`: `KEY`, `DIN` and `KEYLEN` store it; everything else
ignores it (R140, R50). -/
def writeReg (s : State) (a : Addr) (v : Byte) : State :=
  match regAt a with
  | .key k => { s with key := s.key.set k.val v }
  | .din k => { s with din := s.din.set k.val v }
  | .keylen => { s with keylen := v }
  | .dout _ | .cmd | .status | .errlen | .blksize | .reserved _ => s

/-- TAKING AN ERROR, `raise` of R9 and R156: `ERR` takes the code; `INVALID_KEY_SIZE` also records the length in
`ERRLEN` (R151); nothing else changes, nothing is saved and nothing jumps. The return is the next command (R157). -/
def raise (s : State) (e : CmdError) : State :=
  match e with
  | .invalidKeySize len => { s with err := errCode e, errlen := len }
  | .noKey | .illegalCmd | .busyViolation => { s with err := errCode e }

/-- `ERR <- 0`, what an accepted command and a NOP do (R142, R157): the return from an error. -/
def clearErr (s : State) : State := { s with err := codeOk }

/-- Accepting KEYEXP: `ERR <- 0`, `KEYVALID <- 0`, `WK` loaded, `OP` and `CNT` set (R100, R102). -/
def acceptKeyexp (s : State) (wk : WorkKey) (op : Op) (latency : Nat) : State :=
  { clearErr s with keyvalid := false, wk := wk, op := op, cnt := latency }

/-- Accepting ENC or DEC: `ERR <- 0`, `X` loaded, `OP` and `CNT` set (R120, R121). -/
def acceptTransform (s : State) (x : Nibbles16) (op : Op) (latency : Nat) : State :=
  { clearErr s with x := x, op := op, cnt := latency }

/-- Completing KEYEXP: all of `RK`, `KEYSIZE`, `KEYVALID <- 1`, `WK <- 0`, `OP <- IDLE` in one cycle
(R107, R108, R52). -/
def completeKeyexp (s : State) (rk : RoundKeys) (keysize : Bool) : State :=
  { s with rk := rk, keysize := keysize, keyvalid := true, wk := Vector.replicate 32 0, op := .idle }

/-- Completing ENC or DEC: `X` takes its final value, `DOUT <- Pack(X)`, `DVALID <- 1`, `OP <- IDLE` in one cycle
(R120, R52). -/
def completeTransform (s : State) (x : Nibbles16) : State :=
  { s with x := x, dout := pack x, dvalid := true, op := .idle }

/-- `Complete(OP)` with `OP <- IDLE` (R178). `ERR` is not written (R154). -/
def complete (s : State) : State :=
  match s.op with
  | .idle => s
  | .keyexp80 => completeKeyexp s (schedule80 (wkLow s.wk)) false
  | .keyexp128 => completeKeyexp s (schedule128 s.wk) true
  | .enc => completeTransform s (encryptNibbles s.rk s.x)
  | .dec => completeTransform s (decryptNibbles s.rk s.x)

/-- `EngineTick()` (R178). -/
def engineTick (s : State) : State :=
  if s.op = .idle then s
  else
    let s := { s with cnt := s.cnt - 1 }
    if s.cnt = 0 then complete s else s

/-- `Reset()` (R170): every piece of state takes the value of R29. `RK` is unspecified: it takes a free value (R173;
log entry 2). The host's coming cycles are the host's and stay. -/
def resetEdge (s : State) : State :=
  { State.reset with
    rk := Config.rkAfterReset s.freeCtr
    freeCtr := s.freeCtr + 1
    inputs := s.inputs }

end Sys2Proof.Machine
end

