-- ==== Sys2Proof/Machine/Commands.lean ====
section
/-! DEFINITION. The four commands: what writing a legal command byte to `CMD` does, the busy check of
spec/60_exceptions.md R154 first (R143, R155). -/

namespace Sys2Proof.Machine

/-- `NOP` (R142): when idle, `ERR <- 0` and nothing else; when busy it is a violation like any other `CMD` write. -/
def execNop (s : State) : Result :=
  if busy s then .next (raise s .busyViolation)
  else .next (clearErr s)

/-- `KEYEXP` (R100 to R102): refused unless `KEYLEN` is 10 or 16, else the key is sampled and the schedule starts. -/
def execKeyexp (s : State) : Result :=
  if busy s then .next (raise s .busyViolation)
  else if s.keylen = 10 then .next (acceptKeyexp s (loadWk80 s.key) .keyexp80 Config.latKeyexp80)
  else if s.keylen = 16 then .next (acceptKeyexp s (loadWk128 s.key) .keyexp128 Config.latKeyexp128)
  else .next (raise s (.invalidKeySize s.keylen))

/-- `ENC` (R120): refused without an instance (R152), else the block is sampled and encryption starts. -/
def execEnc (s : State) : Result :=
  if busy s then .next (raise s .busyViolation)
  else if s.keyvalid then .next (acceptTransform s (loadX s.din) .enc Config.latEnc)
  else .next (raise s .noKey)

/-- `DEC` (R121): refused without an instance (R152), else the block is sampled and decryption starts. -/
def execDec (s : State) : Result :=
  if busy s then .next (raise s .busyViolation)
  else if s.keyvalid then .next (acceptTransform s (loadX s.din) .dec Config.latDec)
  else .next (raise s .noKey)

end Sys2Proof.Machine
end

