-- ==== Sys2Proof/Machine/Bus.lean ====
section
/-! DEFINITION. The two bus operations (spec/43_host_access.md R140, R141, R143, R144). -/

namespace Sys2Proof.Machine

/-- `Command(v)` (R143): the checks in R155's order, busy, illegal byte, then the command's own. -/
def command (s : State) (v : Byte) : Result :=
  if busy s then .next (raise s .busyViolation)
  else if v.toNat > 0x03 then .next (raise s .illegalCmd)
  else if v = 0x00 then execNop s
  else if v = 0x01 then execKeyexp s
  else if v = 0x02 then execEnc s
  else execDec s

/-- `WR a, v` (R140): a write to `CMD` is a command; any other write stores the byte or is ignored. -/
def execWr (a : Addr) (v : Byte) (s : State) : Result :=
  match regAt a with
  | .cmd => command s v
  | .key _ | .din _ | .dout _ | .status | .keylen | .errlen | .blksize | .reserved _ => .next (writeReg s a v)

/-- `RD a` (R141): the register's value stands on `rdata` in the same cycle; no state changes (R46). `RD 0x24` is
D0's `block_size()` (R144). -/
def execRd (a : Addr) (s : State) : Result :=
  .next { s with rdata := readReg s a }

end Sys2Proof.Machine
end

