-- ==== Sys2Proof/Machine/Clock.lean ====
section
/-! DEFINITION. One rising clock edge (spec/20_memory.md R45), the ports of a cycle (R40), and where the host's next
cycle comes from. -/

namespace Sys2Proof.Machine

/-- A cycle with `sel = 0` (`IDLE` of R72). -/
def idlePorts : Ports := { rst := false, sel := false, we := false, addr := 0, wdata := 0 }

/-- A reset cycle (`RESET` of the listings). The other inputs are ignored (R170). -/
def resetPorts : Ports := { rst := true, sel := false, we := false, addr := 0, wdata := 0 }

/-- The cycle that carries a bus word (R60). -/
def wordPorts (w : BusWord) : Ports :=
  { rst := false, sel := true, we := fieldWe w, addr := fieldAddr w, wdata := fieldWdata w }

/-- The cycle by which the host issues an instruction (R62). -/
def instrPorts (i : Instr) : Ports := wordPorts (busWord i)

/-- One rising clock edge with the given inputs (R45): reset wins; else the tick, then the bus access on the state it
left. `rdata` is 0x00 unless the access is a read (R40). -/
def clockEdge (p : Ports) (s : State) : Result :=
  if p.rst then .next (resetEdge s)
  else
    let s := { engineTick s with rdata := 0 }
    if p.sel then exec (decodeBus (portsWord p)) s else .next s

/-- The inputs of the next cycle: the next of the host's pending cycles, or an idle one if there is none
(log entry 4). -/
def nextPorts (s : State) : Ports := s.inputs.headD idlePorts

/-- The state with that cycle taken from the pending ones. -/
def takePorts (s : State) : State := { s with inputs := s.inputs.tail }

/-- The cycles that place the table's number `w` of `nbits` bits before the engine: the one cycle carrying it, or none
where it is no code at all. -/
def tableCycles (nbits w : Nat) : List Ports :=
  match tableCode nbits w with
  | .ok c => [wordPorts (codeWord c)]
  | .error _ => []

end Sys2Proof.Machine
end

