-- ==== Sys2Proof/Machine/Step.lean ====
section
/-! DEFINITION. One step: one rising clock edge with the host's next inputs (spec/20_memory.md R45). -/

namespace Sys2Proof.Machine

/-- One clock cycle of the engine. -/
def step (s : State) : Host.Outcome State Fault Refusal :=
  clockEdge (nextPorts s) (takePorts s)

/-- `s` with the instruction that the table's number `w` stands for as the host's next cycle (log entry 5). -/
def State.withFetchWord (s : State) (nbits w : Nat) : State :=
  { s with inputs := tableCycles nbits w ++ s.inputs }

end Sys2Proof.Machine
end

