-- ==== Sys2Proof/Machine/HostProgram.lean ====
section
/-! DEFINITION. Host programs: the lines and pseudo-instructions of spec/30_encoding.md R72, what the engine does under
them, one clock cycle a bus access, and D0's four calls as host programs (R73). -/

namespace Sys2Proof.Machine

/-- The cycle of a bus write (R72). -/
def wrCycle (a : Addr) (v : Byte) : Ports := instrPorts (.wr a v)

/-- The cycle of a bus read (R72). -/
def rdCycle (a : Addr) : Ports := instrPorts (.rd a)

/-- The writes of bytes to consecutive registers, the first at `base` (R72). -/
def wrBytes (base : Nat) (bytes : List Byte) : List Ports :=
  bytes.mapIdx fun k b => wrCycle (BitVec.ofNat 6 (base + k)) b

/-- The cycles a line expands to (R72). `POLL` has no fixed expansion: see `pollLoop`. `LDKEY` writes at most the
first 16 bytes and gives `KEYLEN` the length. -/
def lineCycles : HostLine → List Ports
  | .reset => [resetPorts]
  | .idle => [idlePorts]
  | .wr a v => [wrCycle a v]
  | .rd a => [rdCycle a]
  | .nop => [instrPorts .nop]
  | .keyexp => [instrPorts .keyexp]
  | .enc => [instrPorts .enc]
  | .dec => [instrPorts .dec]
  | .poll => []
  | .ldkey bytes => wrBytes 0x00 (bytes.take 16) ++ [wrCycle (addrOf .keylen) (BitVec.ofNat 8 bytes.length)]
  | .ldblk bytes => wrBytes 0x10 bytes
  | .rdblk => (List.finRange 8).map fun k => rdCycle (addrOf (.dout k))

/-- A cycle that returns a byte to the host: a read outside reset (R40, R181). -/
def isRead (p : Ports) : Bool := !p.rst && p.sel && !p.we

/-- The engine driven by the cycles in turn: the bytes the read cycles return and the state left. `none` where a cycle
has no next state. -/
def drive : List Ports → State → Option (List Byte × State)
  | [], s => some ([], s)
  | p :: ps, s =>
    match clockEdge p s with
    | .next t =>
      match drive ps t with
      | some (bytes, u) => some (if isRead p then t.rdata :: bytes else bytes, u)
      | none => none
    | .fault _ => none
    | .refused _ => none

/-- `POLL` (R72): read `STATUS` until bit 0 is 0, at least once; the last value read is the result. `fuel` bounds the
number of reads; `none` where it runs out. -/
def pollLoop : Nat → State → Option (Byte × State)
  | 0, _ => none
  | fuel + 1, s =>
    match clockEdge (rdCycle (addrOf .status)) s with
    | .next t => if t.rdata.getLsbD 0 then pollLoop fuel t else some (t.rdata, t)
    | .fault _ => none
    | .refused _ => none

/-- One line of a host program: the bytes it reads and the state left. An ill-formed line has no run. -/
def runLine (fuel : Nat) (l : HostLine) (s : State) : Option (List Byte × State) :=
  if l.wf then
    match l with
    | .poll => (pollLoop fuel s).map fun (b, t) => ([b], t)
    | l => drive (lineCycles l) s
  else none

/-- A host program: the bytes it reads and the state left. `fuel` bounds each `POLL`. -/
def runLines (fuel : Nat) : List HostLine → State → Option (List Byte × State)
  | [], s => some ([], s)
  | l :: ls, s =>
    match runLine fuel l s with
    | some (bytes, t) => (runLines fuel ls t).map fun (rest, u) => (bytes ++ rest, u)
    | none => none

/-- The lines of D0's `new(key)` up to the poll (R73): the byte read is the polled `STATUS`. `runNew` is the whole
call. -/
def newCall (key : List Byte) : List HostLine := [.ldkey key, .keyexp, .poll]

/-- How a `new(key)` ended (R73). -/
inductive NewOutcome
  /-- The call succeeded: the polled `ERR` is 0. -/
  | made
  /-- The call failed with invalid-key-size(`length`): the polled `ERR` is 1, `length` is what `ERRLEN` read. -/
  | invalidKeySize (length : Byte)
  /-- Any other polled code: R73 calls it neither a success nor a failure. A call made while another command runs gets
  4, its KEYEXP having been dropped (R154; log entry 9). -/
  | otherCode (err : BitVec 3)
  deriving DecidableEq, Repr

/-- What the host does with the polled `STATUS` of a `new(key)` (R73): 0 in `ERR` is success; 1 is failure, and
`RD ERRLEN` gives the length. -/
def newOutcome (fuel : Nat) (status : Byte) (s : State) : Option (NewOutcome × State) :=
  if statusErr status = 0 then some (.made, s)
  else if statusErr status = 1 then
    match runLine fuel (.rd (addrOf .errlen)) s with
    | some ([n], t) => some (.invalidKeySize n, t)
    | some _ => none
    | none => none
  else some (.otherCode (statusErr status), s)

/-- D0's `new(key)` (R73): `LDKEY key`; `KEYEXP`; `POLL`; then success or failure by the polled `ERR`, with the
offending length read from `ERRLEN`. -/
def runNew (fuel : Nat) (key : List Byte) (s : State) : Option (NewOutcome × State) :=
  match runLines fuel (newCall key) s with
  | some ([status], t) => newOutcome fuel status t
  | some _ => none
  | none => none

/-- D0's `block_size()` (R73). -/
def blockSizeCall : List HostLine := [.rd (addrOf .blksize)]

/-- D0's `encrypt(dst, src)` (R73): the polled `STATUS` and the 8 bytes of `dst`. -/
def encryptCall (src : List Byte) : List HostLine := [.ldblk src, .enc, .poll, .rdblk]

/-- D0's `decrypt(dst, src)` (R73). -/
def decryptCall (src : List Byte) : List HostLine := [.ldblk src, .dec, .poll, .rdblk]

end Sys2Proof.Machine
end

