-- ==== Sys2Proof/Safety.lean ====
section
/-! DEFINITION. What claims about runs are stated in: runs of cycles, what a host observes of one, when the engine is
quiescent, which states a host cannot tell apart, and the invariant of the engine. -/

namespace Sys2Proof.Machine

/-- A step answered a next state with this property. -/
def NextWith (r : Result) (P : State → Prop) : Prop := ∃ t, r = .next t ∧ P t

/-- The engine is quiescent (R181). -/
def quiescent (s : State) : Bool := decide (s.op = .idle)

/-- No cycle of the list is a reset cycle. -/
def noReset (ps : List Ports) : Prop := ∀ p ∈ ps, p.rst = false

/-- The cycle is a write to `CMD` that reaches the engine (R61, R140). -/
def isCmdWrite (p : Ports) : Bool := !p.rst && p.sel && p.we && p.addr == cmdAddr

/-- `OP` is one of the two key expansions. -/
def Op.isKeyexp : Op → Bool
  | .keyexp80 | .keyexp128 => true
  | .idle | .enc | .dec => false

/-- `OP` is one of the two transforms. -/
def Op.isTransform : Op → Bool
  | .enc | .dec => true
  | .idle | .keyexp80 | .keyexp128 => false

/-- The latency parameter of a command (R7, R23). -/
def latencyOf : Op → Nat
  | .idle => 0
  | .keyexp80 => Config.latKeyexp80
  | .keyexp128 => Config.latKeyexp128
  | .enc => Config.latEnc
  | .dec => Config.latDec

/-- The observation of a run under the given cycles: the bytes its read cycles return (R181). -/
def observation (ps : List Ports) (s : State) : List Byte :=
  ((drive ps s).map Prod.fst).getD []

/-- A run of the machine from `s` with exactly these coming cycles, one step a cycle. -/
def runCycles (ps : List Ports) (s : State) : Result :=
  Sys2Proof.core.run ps.length { s with inputs := ps }

/-- A round-key store that is some cipher instance: the schedule of some key of the size `keysize` names (R13). -/
def IsInstance (rk : RoundKeys) (keysize : Bool) : Prop :=
  if keysize then ∃ key, rk = ks128 key else ∃ key, rk = ks80 key

/-- THE INVARIANT of the engine, for runs that begin with a reset (R170, R182). -/
structure EngineInv (s : State) : Prop where
  /-- Codes 5 to 7 are never produced (R150, U15). -/
  err_le : s.err.toNat ≤ 4
  /-- A command in flight has cycles left, at most its latency (R23, R178). -/
  cnt_of_op : s.op ≠ .idle → 0 < s.cnt ∧ s.cnt ≤ latencyOf s.op
  /-- No cycles are left when no command is in flight (R29, R178). -/
  cnt_idle : s.op = .idle → s.cnt = 0
  /-- `WK` is zero outside KEYEXP (R12, R108, U5). -/
  wk_zero : s.op.isKeyexp = false → s.wk = Vector.replicate 32 0
  /-- During an 80-bit KEYEXP `WK` holds the unpacked key sampled at accept (R100, R49). -/
  wk_loaded80 : s.op = .keyexp80 → ∃ key, s.wk = loadWk80 key
  /-- The same for a 128-bit KEYEXP. -/
  wk_loaded128 : s.op = .keyexp128 → ∃ key, s.wk = loadWk128 key
  /-- `KEYVALID` is 0 during KEYEXP (R102). -/
  no_key_in_keyexp : s.op.isKeyexp = true → s.keyvalid = false
  /-- A transform in flight has an instance (R120, R121, R152). -/
  key_in_transform : s.op.isTransform = true → s.keyvalid = true
  /-- While `KEYVALID = 1`, `RK` is the schedule of a key of the size `KEYSIZE` says (R13, R19). -/
  instance_of_key : s.keyvalid = true → IsInstance s.rk s.keysize
  /-- Outside a transform, `X`'s leftover value is `Unpack(DOUT)` (R11, R27). -/
  x_leftover : s.op.isTransform = false → s.x = unpack s.dout
  /-- `DOUT` is 0x00 while there is no result since reset (R19, R141). -/
  dout_zero : s.dvalid = false → s.dout = Vector.replicate 8 0

/-- Two states that differ at most in hidden state that no later read can reveal (R27, R173, R181): `RK` while no
instance exists and no transform runs, `WK` outside KEYEXP, `X` outside a transform, `CNT` when idle. -/
structure SameVisible (s t : State) : Prop where
  key : s.key = t.key
  keylen : s.keylen = t.keylen
  din : s.din = t.din
  dout : s.dout = t.dout
  keyvalid : s.keyvalid = t.keyvalid
  keysize : s.keysize = t.keysize
  dvalid : s.dvalid = t.dvalid
  err : s.err = t.err
  errlen : s.errlen = t.errlen
  op : s.op = t.op
  cnt : s.op ≠ .idle → s.cnt = t.cnt
  rk : s.keyvalid = true ∨ s.op.isTransform = true → s.rk = t.rk
  wk : s.op.isKeyexp = true → s.wk = t.wk
  x : s.op.isTransform = true → s.x = t.x

end Sys2Proof.Machine
end

