-- ==== Sys2Proof/Certificates/Slice0/Obligations.lean ====
section
/-! DEFINITION. The statements about the engine, one `def Obligations.<Name> : Prop` each, listed in
OBLIGATIONS.json. They state and do not prove. -/

open Sys2Proof Sys2Proof.Machine

/-! ### Encoding -/

/-- Decode and encode agree for every well-formed instruction; its code lies in its row of the opcode table; and its
bus word (R62: a command is issued by `WR 0x20, <command byte>`) decodes to the bus operation that issues it. -/
def Obligations.DecodeOfEncodeIsTheInstruction : Prop :=
  ∀ i : Instr, i.wf = true →
    decode (encode i) = .ok i ∧ rowMatches (opcodeRow i) (encode i) = true ∧
    decode (.bus (busWord i)) = .ok
      (match i with
        | .wr a v => .wr a v
        | .rd a => .rd a
        | .nop => .wr 0x20 0x00
        | .keyexp => .wr 0x20 0x01
        | .enc => .wr 0x20 0x02
        | .dec => .wr 0x20 0x03)

/-- The other direction: a code that decodes is the code of its instruction, but for the byte a `RD` word carries and
ignores (R60). -/
def Obligations.EncodeOfDecodeIsTheCode : Prop :=
  ∀ (c : Code) (i : Instr), decode c = .ok i →
    encode i =
      match c with
      | .bus w => if fieldWe w then .bus w else .bus (joinBus false (fieldAddr w) 0)
      | .cmd b => .cmd b

/-- R63. Bytes 0x04..0xFF are illegal and written to `CMD` of an idle engine change `ERR` to 3 and nothing else; the
other four bytes are commands; every 15-bit bus word is legal; a write to a reserved or read-only address is a legal
no-op and a read of a reserved address answers 0x00. -/
def Obligations.ReservedAndIllegalEncodings : Prop :=
  (∀ b : Byte, 0x04 ≤ b.toNat → decode (.cmd b) = .error (.illegalCommand b)) ∧
  (∀ b : Byte, b.toNat < 0x04 → ∃ i, decode (.cmd b) = .ok i) ∧
  (∀ (s : State) (b : Byte), s.op = .idle → 0x04 ≤ b.toNat → exec (.wr 0x20 b) s = .next { s with err := 3 }) ∧
  (∀ w : BusWord, ∃ i, decode (.bus w) = .ok i) ∧
  (∀ (s : State) (a : Addr) (v : Byte), 0x25 ≤ a.toNat →
    exec (.wr a v) s = .next s ∧ exec (.rd a) s = .next { s with rdata := 0x00 }) ∧
  (∀ (s : State) (a : Addr) (v : Byte),
    (0x18 ≤ a.toNat ∧ a.toNat ≤ 0x1F) ∨ a = 0x21 ∨ a = 0x23 ∨ a = 0x24 → exec (.wr a v) s = .next s)

/-- Words of the listings of spec/95_test_vectors.md, written out there bit for bit, decode to what they are listed
as. -/
def Obligations.WordsOfTheListingsDecode : Prop :=
  decode (.bus 0x4999) = .ok (.wr 0x09 0x99) ∧ decode (.bus 0x620A) = .ok (.wr 0x22 0x0A) ∧
  decode (.bus 0x57EF) = .ok (.wr 0x17 0xEF) ∧ decode (.bus 0x7FA5) = .ok (.wr 0x3F 0xA5) ∧
  decode (.bus 0x2100) = .ok (.rd 0x21) ∧ decode (.bus 0x1F00) = .ok (.rd 0x1F) ∧
  decode (.cmd 0x00) = .ok .nop ∧ decode (.cmd 0x01) = .ok .keyexp ∧
  decode (.cmd 0x02) = .ok .enc ∧ decode (.cmd 0x03) = .ok .dec ∧
  busWord .nop = 0x6000 ∧ busWord .keyexp = 0x6001 ∧ busWord .enc = 0x6002 ∧ busWord .dec = 0x6003

/-! ### The clock cycle -/

/-- A step runs the decoded instruction: with a bus access as the host's next cycle, a step is the tick, then `exec`
of the instruction the bus word decodes to, on the state the tick left, with the cycle taken and `rdata` 0x00 before
the access. The same for an instruction of either format placed by `withFetchWord`, with or without other pending
cycles. (That the coming cycles wait in State, and what `withFetchWord` stands for, is the model's choice: log entries
4, 5 and 8.) -/
def Obligations.StepRunsTheDecodedInstruction : Prop :=
  (∀ (s : State) (p : Ports) (ps : List Ports) (i : Instr), s.inputs = p :: ps → p.rst = false → p.sel = true →
    decode (.bus (portsWord p)) = .ok i →
    step s = exec i { engineTick s with inputs := ps, rdata := 0x00 }) ∧
  (∀ (s : State) (nbits w : Nat) (i : Instr), decodeTableWord nbits w = some i →
    step (s.withFetchWord nbits w) = exec i { engineTick s with rdata := 0x00 })

/-- A command issued on the bus is the command: a write to `CMD` of the byte of an instruction is that instruction. -/
def Obligations.CommandByteOnTheBusRunsTheCommand : Prop :=
  ∀ (s : State) (b : Byte) (i : Instr), decode (.cmd b) = .ok i → exec (.wr 0x20 b) s = exec i s

/-- A cycle without a bus access, or with no cycle pending, is the tick alone, and `rdata` reads 0x00 (R40, R45). That
an exhausted list of pending cycles means an idle host is the model's choice (log entry 4). -/
def Obligations.IdleCycleIsTheTickAlone : Prop :=
  (∀ (s : State) (p : Ports) (ps : List Ports), s.inputs = p :: ps → p.rst = false → p.sel = false →
    step s = .next { engineTick s with inputs := ps, rdata := 0x00 }) ∧
  (∀ s : State, s.inputs = [] → step s = .next { engineTick s with rdata := 0x00 })

/-- R170: a reset cycle, in any state and whatever the other inputs are, leaves every piece of state but `RK` at zero
(`OP` at `IDLE`); nothing else happens; a read presented with it returns 0x00. Of `RK` nothing is said. -/
def Obligations.ResetCycleGivesTheResetValues : Prop :=
  ∀ (s : State) (p : Ports) (ps : List Ports), s.inputs = p :: ps → p.rst = true →
    NextWith (step s) fun t =>
      t.wk = Vector.replicate 32 0 ∧ t.x = Vector.replicate 16 0 ∧ t.key = Vector.replicate 16 0 ∧ t.keylen = 0 ∧
      t.din = Vector.replicate 8 0 ∧ t.dout = Vector.replicate 8 0 ∧ t.errlen = 0 ∧ busy t = false ∧
      t.keyvalid = false ∧ t.keysize = false ∧ t.dvalid = false ∧ t.err = 0 ∧ t.op = .idle ∧ t.cnt = 0 ∧
      t.rdata = 0x00

/-- R172, the abandoned command: after a reset cycle in any state, however busy, no cycle that is neither a reset nor
a command brings the engine out of `IDLE`, makes an instance or writes a result. -/
def Obligations.ResetAbandonsTheCommand : Prop :=
  ∀ (s : State) (p : Ports) (ps : List Ports), p.rst = true → noReset ps → (∀ q ∈ ps, isCmdWrite q = false) →
    NextWith (runCycles (p :: ps) s) fun t =>
      t.op = .idle ∧ t.keyvalid = false ∧ t.dvalid = false ∧ t.dout = Vector.replicate 8 0

/-- No input sequence is outside the spec (R182) and nothing is stuck: every instruction and every step answers a next
state. -/
def Obligations.EveryStepAnswersANextState : Prop :=
  (∀ (i : Instr) (s : State), ∃ t, exec i s = .next t) ∧ ∀ s : State, ∃ t, step s = .next t

/-- The values of R29 in State.reset, all but `RK`, whose value there is the model's choice (log entry 1); the
constants `CMD` and `BLKSIZE` read 0x00 and 0x08 and `STATUS` reads 0x00. -/
def Obligations.ResetStateHasTheResetValues : Prop :=
  State.reset.wk = Vector.replicate 32 0 ∧ State.reset.x = Vector.replicate 16 0 ∧
  State.reset.key = Vector.replicate 16 0 ∧ State.reset.keylen = 0x00 ∧ State.reset.din = Vector.replicate 8 0 ∧
  State.reset.dout = Vector.replicate 8 0 ∧ State.reset.errlen = 0x00 ∧ State.reset.op = .idle ∧
  State.reset.cnt = 0 ∧ readReg State.reset 0x21 = 0x00 ∧ readReg State.reset 0x20 = 0x00 ∧
  readReg State.reset 0x24 = 0x08

/-! ### WR and RD -/

/-- R140: what `WR a, v` does, address by address, busy or not. -/
def Obligations.WrByAddress : Prop :=
  ∀ (s : State) (v : Byte),
    (∀ k : Fin 16, exec (.wr (BitVec.ofNat 6 k) v) s = .next { s with key := s.key.set k v }) ∧
    (∀ k : Fin 8, exec (.wr (BitVec.ofNat 6 (0x10 + k)) v) s = .next { s with din := s.din.set k v }) ∧
    exec (.wr 0x22 v) s = .next { s with keylen := v } ∧
    exec (.wr 0x20 v) s = command s v ∧
    (∀ a : Addr, 0x18 ≤ a.toNat → a ≠ 0x20 → a ≠ 0x22 → exec (.wr a v) s = .next s)

/-- A write to a read/write register is seen by the next read, and by no read of another address; nothing but the
three read/write registers changes (R46, R47). -/
def Obligations.WrittenByteReadsBack : Prop :=
  ∀ (s : State) (a : Addr) (v : Byte), a.toNat < 0x18 ∨ a = 0x22 →
    NextWith (exec (.wr a v) s) fun t =>
      readReg t a = v ∧ (∀ b : Addr, b ≠ a → readReg t b = readReg s b) ∧
      t = { s with key := t.key, din := t.din, keylen := t.keylen }

/-- The frame of `WR`: an access to `CMD` or to an ignored address leaves the three host buffers; an access to another
address leaves everything but the buffer it names; no `WR` changes `RK`, `DOUT`, `DVALID`, `KEYSIZE`, `rdata`, the
host's coming cycles or the counter of free values. -/
def Obligations.WrFrame : Prop :=
  ∀ (s t : State) (a : Addr) (v : Byte), exec (.wr a v) s = .next t →
    (t.rk = s.rk ∧ t.dout = s.dout ∧ t.dvalid = s.dvalid ∧ t.keysize = s.keysize ∧ t.rdata = s.rdata ∧
      t.inputs = s.inputs ∧ t.freeCtr = s.freeCtr) ∧
    (0x10 ≤ a.toNat → t.key = s.key) ∧ (a.toNat < 0x10 ∨ 0x18 ≤ a.toNat → t.din = s.din) ∧
    (a ≠ 0x22 → t.keylen = s.keylen) ∧
    (∀ b : Addr, b ≠ a → ¬ (a = 0x20 ∧ (b = 0x21 ∨ b = 0x23)) → readReg t b = readReg s b) ∧
    (a ≠ 0x20 → t.wk = s.wk ∧ t.x = s.x ∧ t.op = s.op ∧ t.cnt = s.cnt ∧ t.err = s.err ∧ t.errlen = s.errlen ∧
      t.keyvalid = s.keyvalid)

/-- R141: what `RD a` puts on `rdata`, address by address; nothing else changes. -/
def Obligations.RdByAddress : Prop :=
  ∀ s : State,
    (∀ k : Fin 16, exec (.rd (BitVec.ofNat 6 k)) s = .next { s with rdata := s.key[k] }) ∧
    (∀ k : Fin 8, exec (.rd (BitVec.ofNat 6 (0x10 + k))) s = .next { s with rdata := s.din[k] }) ∧
    (∀ k : Fin 8, exec (.rd (BitVec.ofNat 6 (0x18 + k))) s = .next { s with rdata := s.dout[k] }) ∧
    exec (.rd 0x20) s = .next { s with rdata := 0x00 } ∧
    exec (.rd 0x21) s = .next { s with rdata := statusByte s } ∧
    exec (.rd 0x22) s = .next { s with rdata := s.keylen } ∧
    exec (.rd 0x23) s = .next { s with rdata := s.errlen } ∧
    exec (.rd 0x24) s = .next { s with rdata := 0x08 } ∧
    (∀ a : Addr, 0x25 ≤ a.toNat → exec (.rd a) s = .next { s with rdata := 0x00 })

/-- The bits of `STATUS` (R19), read at 0x21. -/
def Obligations.StatusBits : Prop :=
  ∀ s : State,
    ((readReg s 0x21).getLsbD 0 = true ↔ s.op ≠ .idle) ∧
    (readReg s 0x21).getLsbD 1 = s.keyvalid ∧ (readReg s 0x21).getLsbD 2 = s.keysize ∧
    (readReg s 0x21).getLsbD 3 = s.dvalid ∧ (readReg s 0x21).extractLsb' 4 3 = s.err ∧
    (readReg s 0x21).getLsbD 7 = false

/-- A read has no side effect and reading again returns the same value; a write outside `CMD` is idempotent (R46). -/
def Obligations.AccessesOutsideCmdAreIdempotent : Prop :=
  ∀ (s : State) (a : Addr),
    (NextWith (exec (.rd a) s) fun t =>
      t = { s with rdata := readReg s a } ∧ (∀ b : Addr, readReg t b = readReg s b) ∧ exec (.rd a) t = .next t) ∧
    (∀ v : Byte, a ≠ 0x20 → NextWith (exec (.wr a v) s) fun t => exec (.wr a v) t = .next t)

/-! ### Commands -/

/-- R143: `Command(v)`, the checks in their order. -/
def Obligations.CommandChecksInOrder : Prop :=
  ∀ (s : State) (v : Byte),
    (s.op ≠ .idle → exec (.wr 0x20 v) s = .next { s with err := 4 }) ∧
    (s.op = .idle →
      (0x03 < v.toNat → exec (.wr 0x20 v) s = .next { s with err := 3 }) ∧
      (v = 0x00 → exec (.wr 0x20 v) s = .next { s with err := 0 }) ∧
      (v = 0x01 → exec (.wr 0x20 v) s = exec .keyexp s) ∧
      (v = 0x02 → exec (.wr 0x20 v) s = exec .enc s) ∧
      (v = 0x03 → exec (.wr 0x20 v) s = exec .dec s))

/-- R150: the outcome code of a `CMD` write, from the table; `ERRLEN` is recorded for code 1 only; no read, no other
write and no tick changes `ERR`. -/
def Obligations.OutcomeCodeOfACommandWrite : Prop :=
  (∀ (s : State) (v : Byte), NextWith (exec (.wr 0x20 v) s) fun t =>
    t.err =
      (if s.op ≠ .idle then 4
      else if 0x04 ≤ v.toNat then 3
      else if v = 0x01 ∧ s.keylen ≠ 10 ∧ s.keylen ≠ 16 then 1
      else if (v = 0x02 ∨ v = 0x03) ∧ s.keyvalid = false then 2
      else 0) ∧
    t.errlen = if t.err = 1 then s.keylen else s.errlen) ∧
  (∀ (s : State) (a : Addr), NextWith (exec (.rd a) s) fun t => t.err = s.err) ∧
  (∀ (s : State) (a : Addr) (v : Byte), a ≠ 0x20 → NextWith (exec (.wr a v) s) fun t => t.err = s.err) ∧
  (∀ s : State, (engineTick s).err = s.err)

/-- R142: NOP on an idle engine clears `ERR` and does nothing else; on a busy one it is a violation. -/
def Obligations.NopClearsErr : Prop :=
  ∀ s : State,
    (s.op = .idle → exec .nop s = .next { s with err := 0 }) ∧
    (s.op ≠ .idle → exec .nop s = .next { s with err := 4 })

/-- KEYEXP with `KEYLEN` 10 or 16 on an idle engine is accepted (R100, R102), in every state and whatever the key: the
key bytes are in `WK`, high nibble first, the rest of `WK` is zero, and nothing else changes. -/
def Obligations.KeyexpIsAccepted : Prop :=
  ∀ s : State, s.op = .idle →
    (s.keylen = 10 → NextWith (exec .keyexp s) fun t =>
      (∀ (k : Nat) (h : k < 10),
        t.wk[2 * k].toNat = s.key[k].toNat / 16 ∧ t.wk[2 * k + 1].toNat = s.key[k].toNat % 16) ∧
      (∀ (i : Nat) (h : i < 32), 20 ≤ i → t.wk[i] = 0) ∧
      t = { s with err := 0, keyvalid := false, wk := t.wk, op := .keyexp80, cnt := Config.latKeyexp80 }) ∧
    (s.keylen = 16 → NextWith (exec .keyexp s) fun t =>
      (∀ (k : Nat) (h : k < 16),
        t.wk[2 * k].toNat = s.key[k].toNat / 16 ∧ t.wk[2 * k + 1].toNat = s.key[k].toNat % 16) ∧
      t = { s with err := 0, keyvalid := false, wk := t.wk, op := .keyexp128, cnt := Config.latKeyexp128 })

/-- R101: the only check of KEYEXP on an idle engine is the length. Any other length is refused with code 1 and the
length in `ERRLEN`, and nothing else changes; 10 and 16 are accepted for every key. -/
def Obligations.KeyexpValidatesTheLengthOnly : Prop :=
  ∀ s : State, s.op = .idle →
    (s.keylen ≠ 10 → s.keylen ≠ 16 → exec .keyexp s = .next { s with err := 1, errlen := s.keylen }) ∧
    (s.keylen = 10 ∨ s.keylen = 16 → NextWith (exec .keyexp s) fun t => t.err = 0 ∧ t.op ≠ .idle)

/-- ENC and DEC with an instance on an idle engine are accepted (R120, R121): the block is in `X`, high nibble first,
and nothing else changes. -/
def Obligations.EncAndDecAreAccepted : Prop :=
  ∀ s : State, s.op = .idle → s.keyvalid = true →
    (NextWith (exec .enc s) fun t =>
      (∀ (k : Nat) (h : k < 8),
        t.x[2 * k].toNat = s.din[k].toNat / 16 ∧ t.x[2 * k + 1].toNat = s.din[k].toNat % 16) ∧
      t = { s with err := 0, x := t.x, op := .enc, cnt := Config.latEnc }) ∧
    (NextWith (exec .dec s) fun t =>
      (∀ (k : Nat) (h : k < 8),
        t.x[2 * k].toNat = s.din[k].toNat / 16 ∧ t.x[2 * k + 1].toNat = s.din[k].toNat % 16) ∧
      t = { s with err := 0, x := t.x, op := .dec, cnt := Config.latDec })

/-- ENC and DEC without an instance are refused with code 2 and change nothing else (R152). -/
def Obligations.EncAndDecWithoutKeyAreRefused : Prop :=
  ∀ s : State, s.op = .idle → s.keyvalid = false →
    exec .enc s = .next { s with err := 2 } ∧ exec .dec s = .next { s with err := 2 }

/-- R154: a `CMD` write to a busy engine, whatever the byte, sets `ERR` to 4 and does nothing else; the command in
flight then completes as it would have, and its completion leaves `ERR`. -/
def Obligations.BusyEngineDropsCommands : Prop :=
  ∀ s : State, s.op ≠ .idle →
    (∀ v : Byte, exec (.wr 0x20 v) s = .next { s with err := 4 }) ∧
    (∀ i : Instr, i = .nop ∨ i = .keyexp ∨ i = .enc ∨ i = .dec → exec i s = .next { s with err := 4 }) ∧
    engineTick { s with err := 4 } = { engineTick s with err := 4 }

/-- The frame of the four commands. None writes a host buffer, `DOUT`, `DVALID`, `KEYSIZE`, `RK`, `rdata`, the coming
cycles or the counter of free values, and no address but `STATUS` and, for KEYEXP, `ERRLEN` reads differently. NOP
leaves everything but `ERR`; KEYEXP leaves `X`; ENC and DEC leave `WK`, `KEYVALID` and `ERRLEN`; a command that is
refused leaves all of the engine. -/
def Obligations.CommandFrame : Prop :=
  ∀ (i : Instr) (s t : State), i = .nop ∨ i = .keyexp ∨ i = .enc ∨ i = .dec → exec i s = .next t →
    (t.rk = s.rk ∧ t.key = s.key ∧ t.keylen = s.keylen ∧ t.din = s.din ∧ t.dout = s.dout ∧ t.keysize = s.keysize ∧
      t.dvalid = s.dvalid ∧ t.rdata = s.rdata ∧ t.inputs = s.inputs ∧ t.freeCtr = s.freeCtr) ∧
    (∀ a : Addr, a ≠ 0x21 → ¬ (i = .keyexp ∧ a = 0x23) → readReg t a = readReg s a) ∧
    (i = .nop → t = { s with err := t.err }) ∧
    (i = .keyexp → t.x = s.x) ∧
    (i = .enc ∨ i = .dec → t.wk = s.wk ∧ t.keyvalid = s.keyvalid ∧ t.errlen = s.errlen) ∧
    (t.err ≠ 0 → t = { s with err := t.err, errlen := t.errlen })

/-! ### The engine -/

/-- `EngineTick` before a completion (R178): nothing when idle, else `CNT` counts down and nothing else changes. -/
def Obligations.TickCountsDown : Prop :=
  ∀ s : State,
    (s.op = .idle → engineTick s = s) ∧
    (s.op ≠ .idle → 1 < s.cnt → engineTick s = { s with cnt := s.cnt - 1 })

/-- The completing tick of KEYEXP (R107, R108): `RK` is the schedule of the key sampled at accept, with `KEYSIZE`,
`KEYVALID`, `WK` wiped and `OP` idle, all at once, and nothing else changes. -/
def Obligations.TickCompletesKeyexp : Prop :=
  ∀ (s : State) (key : Vector Byte 16), s.cnt = 1 →
    (s.op = .keyexp80 → s.wk = loadWk80 key → engineTick s =
      { s with
        rk := ks80 (keyBytes80 key), keysize := false, keyvalid := true, wk := Vector.replicate 32 0
        op := .idle, cnt := 0 }) ∧
    (s.op = .keyexp128 → s.wk = loadWk128 key → engineTick s =
      { s with
        rk := ks128 key, keysize := true, keyvalid := true, wk := Vector.replicate 32 0
        op := .idle, cnt := 0 })

/-- The completing tick of ENC and DEC (R120, R121, R52): `DOUT` is the transform of the block sampled at accept, `X`
its nibbles, `DVALID` 1 and `OP` idle, all at once, and nothing else changes. -/
def Obligations.TickCompletesTransform : Prop :=
  ∀ (s : State) (b : Block), s.cnt = 1 → s.x = unpack b →
    (s.op = .enc → engineTick s =
      { s with
        x := unpack (encrypt s.rk b), dout := encrypt s.rk b, dvalid := true, op := .idle, cnt := 0 }) ∧
    (s.op = .dec → engineTick s =
      { s with
        x := unpack (decrypt s.rk b), dout := decrypt s.rk b, dvalid := true, op := .idle, cnt := 0 })

/-- A command written in the cycle in which another completes sees the idle engine and the results (R45, R155). In
the completion cycle of any command in flight the tick leaves the engine idle with the results in place, and NOP, a
KEYEXP with a legal `KEYLEN`, and an ENC or DEC with an instance, be it the one just completed, are each accepted on
the state the tick left: nothing but what the acceptance writes differs from it. -/
def Obligations.CommandInTheCompletionCycleIsAccepted : Prop :=
  ∀ (s : State) (ps : List Ports), s.op ≠ .idle → s.cnt = 1 →
    (engineTick s).op = .idle ∧
    (∀ key : Vector Byte 16,
      (s.op = .keyexp80 → s.wk = loadWk80 key →
        (engineTick s).rk = ks80 (keyBytes80 key) ∧ (engineTick s).keyvalid = true) ∧
      (s.op = .keyexp128 → s.wk = loadWk128 key →
        (engineTick s).rk = ks128 key ∧ (engineTick s).keyvalid = true)) ∧
    (∀ b : Block, s.x = unpack b →
      (s.op = .enc → (engineTick s).dout = encrypt s.rk b ∧ (engineTick s).dvalid = true) ∧
      (s.op = .dec → (engineTick s).dout = decrypt s.rk b ∧ (engineTick s).dvalid = true)) ∧
    (s.inputs = instrPorts .nop :: ps →
      step s = .next { engineTick s with inputs := ps, rdata := 0x00, err := 0 }) ∧
    (s.inputs = instrPorts .keyexp :: ps → s.keylen = 10 →
      step s = .next { engineTick s with
        inputs := ps, rdata := 0x00, err := 0, keyvalid := false, wk := loadWk80 s.key
        op := .keyexp80, cnt := Config.latKeyexp80 }) ∧
    (s.inputs = instrPorts .keyexp :: ps → s.keylen = 16 →
      step s = .next { engineTick s with
        inputs := ps, rdata := 0x00, err := 0, keyvalid := false, wk := loadWk128 s.key
        op := .keyexp128, cnt := Config.latKeyexp128 }) ∧
    (s.inputs = instrPorts .enc :: ps → s.keyvalid = true ∨ s.op.isKeyexp = true →
      step s = .next { engineTick s with
        inputs := ps, rdata := 0x00, err := 0, x := unpack s.din, op := .enc, cnt := Config.latEnc }) ∧
    (s.inputs = instrPorts .dec :: ps → s.keyvalid = true ∨ s.op.isKeyexp = true →
      step s = .next { engineTick s with
        inputs := ps, rdata := 0x00, err := 0, x := unpack s.din, op := .dec, cnt := Config.latDec })

/-- The engine never writes `KEY`, `KEYLEN` or `DIN` (R182): in a cycle that is no reset and no write to them they
keep their values, and in a write cycle outside `CMD` only the addressed register differs. -/
def Obligations.EngineNeverWritesHostBuffers : Prop :=
  ∀ (s t : State) (p : Ports) (ps : List Ports), s.inputs = p :: ps → p.rst = false → step s = .next t →
    ((p.sel = false ∨ p.we = false ∨ 0x18 ≤ p.addr.toNat) → t.key = s.key ∧ t.din = s.din) ∧
    ((p.sel = false ∨ p.we = false ∨ p.addr ≠ 0x22) → t.keylen = s.keylen) ∧
    (p.sel = true → p.we = true → ∀ b : Addr, b ≠ p.addr → b.toNat < 0x18 ∨ b = 0x22 → readReg t b = readReg s b)

/-- `RK` changes only in a reset cycle or in the completing tick of a KEYEXP (R13, R126), and `DOUT` only in a reset
cycle or in the completing tick of an ENC or DEC (R17). -/
def Obligations.ResultsChangeOnlyAtCompletionOrReset : Prop :=
  ∀ s t : State, step s = .next t →
    (t.rk ≠ s.rk → (∃ p ps, s.inputs = p :: ps ∧ p.rst = true) ∨ (s.op.isKeyexp = true ∧ s.cnt ≤ 1)) ∧
    (t.dout ≠ s.dout → (∃ p ps, s.inputs = p :: ps ∧ p.rst = true) ∨ (s.op.isTransform = true ∧ s.cnt ≤ 1))

/-- A quiescent engine stays as it is until the next command or reset (R163, R181): under cycles that are neither,
only the host buffers and the ports differ. -/
def Obligations.QuiescentEngineKeepsItsState : Prop :=
  ∀ (s : State) (ps : List Ports), quiescent s = true → noReset ps → (∀ p ∈ ps, isCmdWrite p = false) →
    NextWith (runCycles ps s) fun t =>
      t = { s with key := t.key, din := t.din, keylen := t.keylen, rdata := t.rdata, inputs := [] }

/-- The invariant of the engine holds after reset. What it says of `RK` is nothing there. -/
def Obligations.InvariantHoldsAtReset : Prop := EngineInv State.reset

/-- Every step keeps the invariant of the engine, from every state that has it and under every input: the codes of
R150, `CNT` within the latency, `WK` wiped outside KEYEXP, no instance during KEYEXP and one during a transform, `RK`
the schedule of some key while `KEYVALID = 1`, `X`'s leftover the nibbles of `DOUT`. -/
def Obligations.EveryStepKeepsTheInvariant : Prop :=
  ∀ s t : State, EngineInv s → step s = .next t → EngineInv t

/-! ### Runs of a command -/

/-- KEYEXP of an 80-bit key, from acceptance to completion, under any cycles without reset, writes to `KEY` and
`KEYLEN` and dropped commands among them: until the latency has passed it is in flight and `RK`, `KEYSIZE`, `DOUT` and
`DVALID` are as before with `KEYVALID = 0`; in the cycle in which it has passed, `RK` is `KS80` of the key bytes at
acceptance. -/
def Obligations.Keyexp80RunFillsTheRoundKeys : Prop :=
  ∀ (s : State) (ps : List Ports), s.op = .idle → s.keylen = 10 → noReset ps →
    (ps.length < latencyOf .keyexp80 → NextWith (runCycles (instrPorts .keyexp :: ps) s) fun t =>
      t.op = .keyexp80 ∧ t.keyvalid = false ∧ t.keysize = s.keysize ∧ t.rk = s.rk ∧ t.dout = s.dout ∧
      t.dvalid = s.dvalid) ∧
    (ps.length = latencyOf .keyexp80 → NextWith (runCycles (instrPorts .keyexp :: ps) s) fun t =>
      t.rk = ks80 (keyBytes80 s.key) ∧ t.keysize = false ∧ t.dout = s.dout ∧ t.dvalid = s.dvalid ∧
      ((∀ p ∈ ps.getLast?, isCmdWrite p = false) →
        t.op = .idle ∧ t.keyvalid = true ∧ t.wk = Vector.replicate 32 0))

/-- The same for a 128-bit key. -/
def Obligations.Keyexp128RunFillsTheRoundKeys : Prop :=
  ∀ (s : State) (ps : List Ports), s.op = .idle → s.keylen = 16 → noReset ps →
    (ps.length < latencyOf .keyexp128 → NextWith (runCycles (instrPorts .keyexp :: ps) s) fun t =>
      t.op = .keyexp128 ∧ t.keyvalid = false ∧ t.keysize = s.keysize ∧ t.rk = s.rk ∧ t.dout = s.dout ∧
      t.dvalid = s.dvalid) ∧
    (ps.length = latencyOf .keyexp128 → NextWith (runCycles (instrPorts .keyexp :: ps) s) fun t =>
      t.rk = ks128 s.key ∧ t.keysize = true ∧ t.dout = s.dout ∧ t.dvalid = s.dvalid ∧
      ((∀ p ∈ ps.getLast?, isCmdWrite p = false) →
        t.op = .idle ∧ t.keyvalid = true ∧ t.wk = Vector.replicate 32 0))

/-- ENC, from acceptance to completion, under any cycles without reset: until the latency has passed `DOUT` and
`DVALID` are as before; in the cycle in which it has passed, `DOUT` is the encryption of the block at acceptance. -/
def Obligations.EncRunWritesTheCiphertext : Prop :=
  ∀ (s : State) (ps : List Ports), s.op = .idle → s.keyvalid = true → noReset ps →
    (ps.length < latencyOf .enc → NextWith (runCycles (instrPorts .enc :: ps) s) fun t =>
      t.op = .enc ∧ t.keyvalid = true ∧ t.rk = s.rk ∧ t.dout = s.dout ∧ t.dvalid = s.dvalid) ∧
    (ps.length = latencyOf .enc → NextWith (runCycles (instrPorts .enc :: ps) s) fun t =>
      t.dout = encrypt s.rk s.din ∧ t.dvalid = true ∧ t.rk = s.rk ∧
      ((∀ p ∈ ps.getLast?, isCmdWrite p = false) →
        t.op = .idle ∧ t.keyvalid = true ∧ t.x = unpack (encrypt s.rk s.din)))

/-- The same for DEC. -/
def Obligations.DecRunWritesThePlaintext : Prop :=
  ∀ (s : State) (ps : List Ports), s.op = .idle → s.keyvalid = true → noReset ps →
    (ps.length < latencyOf .dec → NextWith (runCycles (instrPorts .dec :: ps) s) fun t =>
      t.op = .dec ∧ t.keyvalid = true ∧ t.rk = s.rk ∧ t.dout = s.dout ∧ t.dvalid = s.dvalid) ∧
    (ps.length = latencyOf .dec → NextWith (runCycles (instrPorts .dec :: ps) s) fun t =>
      t.dout = decrypt s.rk s.din ∧ t.dvalid = true ∧ t.rk = s.rk ∧
      ((∀ p ∈ ps.getLast?, isCmdWrite p = false) →
        t.op = .idle ∧ t.keyvalid = true ∧ t.x = unpack (decrypt s.rk s.din)))

/-- The result of a transform depends on `RK` and on the block at acceptance only (R126): two engines that agree on
these, in whatever else they differ and whatever cycles without reset follow, have the same `DOUT` when the latency
has passed. -/
def Obligations.TransformDependsOnRoundKeysAndBlockOnly : Prop :=
  ∀ (s u : State) (ps qs : List Ports), s.op = .idle → u.op = .idle → s.keyvalid = true → u.keyvalid = true →
    s.rk = u.rk → s.din = u.din → noReset ps → noReset qs →
    (ps.length = latencyOf .enc → qs.length = latencyOf .enc →
      ∃ t v, runCycles (instrPorts .enc :: ps) s = .next t ∧ runCycles (instrPorts .enc :: qs) u = .next v ∧
        t.dout = v.dout) ∧
    (ps.length = latencyOf .dec → qs.length = latencyOf .dec →
      ∃ t v, runCycles (instrPorts .dec :: ps) s = .next t ∧ runCycles (instrPorts .dec :: qs) u = .next v ∧
        t.dout = v.dout)

/-- Termination (R180): a command in flight needs no further host action. Under cycles that are neither resets nor
commands the engine is quiescent after at most the latency of the command in flight. -/
def Obligations.EngineIsQuiescentWithinTheLatency : Prop :=
  ∀ (s : State) (ps : List Ports), EngineInv s → noReset ps → (∀ p ∈ ps, isCmdWrite p = false) →
    latencyOf s.op ≤ ps.length → NextWith (runCycles ps s) fun t => quiescent t = true

/-- A `POLL` loop terminates (R180): as many reads as cycles are left, and at least one, suffice; the value read has
bit 0 clear and is the `STATUS` of the quiescent state reached. In a busy state with `CNT` 0, which no run reaches,
that the next tick completes the command is the model's choice (log entry 3), not the spec's: a counter of fixed width
would wrap there. -/
def Obligations.PollTerminates : Prop :=
  ∀ (s : State) (fuel : Nat), 1 ≤ fuel → s.cnt ≤ fuel →
    ∃ t, pollLoop fuel s = some (statusByte t, t) ∧ (statusByte t).getLsbD 0 = false ∧ quiescent t = true

/-- What the host cannot see (R27, R173, R181): engines that differ at most in the hidden state no later read can
reveal, the unspecified `RK` of an engine without an instance above all, return the same bytes under every sequence of
cycles. -/
def Obligations.HiddenStateIsNeverObserved : Prop :=
  ∀ (s t : State) (ps : List Ports), SameVisible s t → observation ps s = observation ps t

/-! ### The cipher -/

/-- `Decrypt` and `Encrypt` are inverse to each other for every round-key table and every block (R127). -/
def Obligations.DecryptAndEncryptAreInverse : Prop :=
  ∀ (rk : RoundKeys) (b : Block), decrypt rk (encrypt rk b) = b ∧ encrypt rk (decrypt rk b) = b

/-- R86: `FeistelStep` lane by lane, one lane alone writes its odd position only, the lanes in any order, the
involution and the rule's example. -/
def Obligations.FeistelStepByLanes : Prop :=
  (∀ (x : Nibbles16) (k : RoundKey) (j : Nat) (h : j < 8),
    (feistelStep x k)[2 * j] = x[2 * j] ∧
    (feistelStep x k)[2 * j + 1] = x[2 * j + 1] ^^^ sbox (x[2 * j] ^^^ k[j])) ∧
  (∀ (x : Nibbles16) (k : RoundKey), feistelStep (feistelStep x k) k = x) ∧
  (∀ (x : Nibbles16) (k : RoundKey) (j : Fin 8) (i : Nat) (h : i < 16), i ≠ 2 * j + 1 →
    (feistelLane k x j)[i] = x[i]) ∧
  (∀ (order : List (Fin 8)) (x : Nibbles16) (k : RoundKey), order.Perm (List.finRange 8) →
    feistelSerial order x k = feistelStep x k) ∧
  feistelStep #v[0, 1, 2, 3, 4, 5, 6, 7, 8, 9, 0xA, 0xB, 0xC, 0xD, 0xE, 0xF] (Vector.replicate 8 0) =
    #v[0, 0xD, 2, 0xC, 4, 7, 6, 0xE, 8, 1, 0xA, 6, 0xC, 0xC, 0xE, 9]

/-- The two datapaths compute the same, whichever an implementation has (R124, R7). -/
def Obligations.DatapathsAgree : Prop :=
  (∀ (x : Nibbles16) (k : RoundKey), feistelOn Config.datapath x k = feistelStep x k) ∧
  (∀ (d : Datapath) (x : Nibbles16) (k : RoundKey), feistelOn d x k = feistelStep x k)

/-- R87: `Permute` sends the value at `h` to position `T[h]`, in gather form too, with either table; the two undo each
other; the rule's examples. -/
def Obligations.PermuteByPositions : Prop :=
  (∀ (x : Nibbles16) (h : Fin 16),
    (permute shufRom x)[shufRom[h].val] = x[h] ∧ (permute shufinvRom x)[shufinvRom[h].val] = x[h]) ∧
  (∀ (x : Nibbles16) (d : Fin 16),
    (permute shufRom x)[d] = x[shufinvRom[d].val] ∧ (permute shufinvRom x)[d] = x[shufRom[d].val]) ∧
  (∀ x : Nibbles16, permute shufinvRom (permute shufRom x) = x ∧ permute shufRom (permute shufinvRom x) = x) ∧
  permute shufRom #v[0, 1, 2, 3, 4, 5, 6, 7, 8, 9, 0xA, 0xB, 0xC, 0xD, 0xE, 0xF] =
    #v[1, 2, 0xB, 6, 3, 0, 9, 4, 7, 0xA, 0xD, 0xE, 5, 8, 0xF, 0xC] ∧
  permute shufinvRom #v[0, 1, 2, 3, 4, 5, 6, 7, 8, 9, 0xA, 0xB, 0xC, 0xD, 0xE, 0xF] =
    #v[5, 0, 1, 4, 7, 0xC, 3, 8, 0xD, 6, 9, 2, 0xF, 0xA, 0xB, 0xE]

/-- R84: `Unpack` for every length, with the rule's example. -/
def Obligations.UnpackByBytes : Prop :=
  (∀ (n : Nat) (b : Vector Byte n) (k : Nat) (h : k < n),
    (unpack b)[2 * k].toNat = b[k].toNat / 16 ∧ (unpack b)[2 * k + 1].toNat = b[k].toNat % 16) ∧
  unpack #v[0x01, 0x23, 0x45, 0x67, 0x89, 0xAB, 0xCD, 0xEF] =
    #v[0, 1, 2, 3, 4, 5, 6, 7, 8, 9, 0xA, 0xB, 0xC, 0xD, 0xE, 0xF]

/-- R85: `Pack`, and the round trips with `Unpack`, with the rule's example. -/
def Obligations.PackAndUnpackAreInverse : Prop :=
  (∀ (x : Nibbles16) (k : Nat) (h : k < 8), (pack x)[k].toNat = x[2 * k].toNat * 16 + x[2 * k + 1].toNat) ∧
  (∀ b : Block, pack (unpack b) = b) ∧ (∀ x : Nibbles16, unpack (pack x) = x) ∧
  pack #v[7, 0xC, 1, 0xF, 0, 0xF, 8, 0, 0xB, 1, 0xD, 0xF, 9, 0xC, 2, 8] =
    #v[0x7C, 0x1F, 0x0F, 0x80, 0xB1, 0xDF, 0x9C, 0x28]

/-- R80, R81, R82: the S-box takes every value once, the shuffles undo each other, and the shuffle exchanges even and
odd positions. -/
def Obligations.TablesArePermutations : Prop :=
  (∀ v : Nibble, ∃ u, sbox u = v) ∧ (∀ u v : Nibble, sbox u = sbox v → u = v) ∧
  (∀ h : Fin 16, shufinvRom[shufRom[h].val] = h ∧ shufRom[shufinvRom[h].val] = h) ∧
  (∀ h : Fin 16, (shufRom[h].val + h.val) % 2 = 1)

/-- R65: the two halves of a round constant, zero-extended, enter `WK[7]` and `WK[19]`; bit 3 of both, and every other
nibble, is never changed by the injection. -/
def Obligations.RoundConstantInjection : Prop :=
  ∀ (n : Nat) (hn : 20 ≤ n) (w : Vector Nibble n) (c : BitVec 6),
    ((inject hn w c)[7] ^^^ w[7]).toNat = c.toNat / 8 ∧ ((inject hn w c)[19] ^^^ w[19]).toNat = c.toNat % 8 ∧
    (inject hn w c)[7].getLsbD 3 = w[7].getLsbD 3 ∧ (inject hn w c)[19].getLsbD 3 = w[19].getLsbD 3 ∧
    ∀ (i : Nat) (h : i < n), i ≠ 7 → i ≠ 19 → (inject hn w c)[i] = w[i]

/-- R106: the copy loop of R103 and R104 and the rotation stated without a loop are the same, position by position,
for every register length. -/
def Obligations.RotationLoopIsTheRotation : Prop :=
  ∀ (n : Nat) (hn : 20 ≤ n) (w : Vector Nibble n),
    rotateLoop hn w = rotate hn w ∧
    (∀ (p : Nat) (h : p + 4 < n), (rotate hn w)[p] = w[p + 4]) ∧
    (rotate hn w)[n - 4] = w[1] ∧ (rotate hn w)[n - 3] = w[2] ∧ (rotate hn w)[n - 2] = w[3] ∧
    (rotate hn w)[n - 1] = w[0]

/-- R103, as its loop reads: working registers `W 0`, `W 1`, … from the unpacked key, each the update of the one
before (mix, constant, rotation, all written out by position), and 36 taps, none of them after an update that no tap
follows. -/
def Obligations.KeySchedule80ByRounds : Prop :=
  ∀ key : Vector Byte 10, ∃ W : Nat → Vector Nibble 20, W 0 = unpack key ∧
    (∀ (i : Nat) (h : i < 35),
      (∀ (p : Nat) (hp : p < 16), p ≠ 0 → p ≠ 3 → p ≠ 15 → (W (i + 1))[p] = (W i)[p + 4]) ∧
      (W (i + 1))[0] = (W i)[4] ^^^ sbox (W i)[16] ∧
      (W (i + 1))[3] = (W i)[7] ^^^ rconHi rconRom[i] ∧
      (W (i + 1))[15] = (W i)[19] ^^^ rconLo rconRom[i] ∧
      (W (i + 1))[16] = (W i)[1] ^^^ sbox (W i)[0] ∧
      (W (i + 1))[17] = (W i)[2] ∧ (W (i + 1))[18] = (W i)[3] ∧ (W (i + 1))[19] = (W i)[0]) ∧
    ∀ (i : Nat) (h : i < 36), (ks80 key)[i] =
      #v[(W i)[1], (W i)[3], (W i)[4], (W i)[6], (W i)[13], (W i)[14], (W i)[15], (W i)[16]]

/-- R104, as its loop reads. -/
def Obligations.KeySchedule128ByRounds : Prop :=
  ∀ key : Vector Byte 16, ∃ W : Nat → Vector Nibble 32, W 0 = unpack key ∧
    (∀ (i : Nat) (h : i < 35),
      (∀ (p : Nat) (hp : p < 28), p ≠ 0 → p ≠ 3 → p ≠ 15 → p ≠ 19 → (W (i + 1))[p] = (W i)[p + 4]) ∧
      (W (i + 1))[0] = (W i)[4] ^^^ sbox (W i)[16] ∧
      (W (i + 1))[3] = (W i)[7] ^^^ rconHi rconRom[i] ∧
      (W (i + 1))[15] = (W i)[19] ^^^ rconLo rconRom[i] ∧
      (W (i + 1))[19] = (W i)[23] ^^^ sbox (W i)[30] ∧
      (W (i + 1))[28] = (W i)[1] ^^^ sbox (W i)[0] ∧
      (W (i + 1))[29] = (W i)[2] ∧ (W (i + 1))[30] = (W i)[3] ∧ (W (i + 1))[31] = (W i)[0]) ∧
    ∀ (i : Nat) (h : i < 36), (ks128 key)[i] =
      #v[(W i)[2], (W i)[3], (W i)[12], (W i)[15], (W i)[17], (W i)[18], (W i)[28], (W i)[31]]

/-- R122 and R123 as their loops read: the encryption states `E 0`, …, `E 36` and the decryption states, round by
round, with the permutation after every round but the last. -/
def Obligations.TransformsByRounds : Prop :=
  ∀ (rk : RoundKeys) (b : Block),
    (∃ E : Nat → Nibbles16, E 0 = unpack b ∧
      (∀ (i : Nat) (h : i < 35), E (i + 1) = permute shufRom (feistelStep (E i) rk[i])) ∧
      encrypt rk b = pack (feistelStep (E 35) rk[35])) ∧
    (∃ D : Nat → Nibbles16, D 0 = unpack b ∧
      (∀ (i : Nat) (h : i < 35), D (i + 1) = permute shufinvRom (feistelStep (D i) rk[35 - i])) ∧
      decrypt rk b = pack (feistelStep (D 35) rk[0]))

/-! ### Host programs -/

/-- The cycles of a host program may be performed one by one or wait as pending cycles: the run of the machine is the
same. (That pending cycles wait in State is the model's way of holding them, log entry 4.) -/
def Obligations.PendingCyclesRunAsDriven : Prop :=
  ∀ (ps : List Ports) (s t : State) (bytes : List Byte), drive ps s = some (bytes, t) →
    runCycles ps s = .next { t with inputs := [] }

/-- `new(key)` with an 80-bit or a 128-bit key (R73): from every idle engine the call succeeds, the polled `STATUS`
has `ERR = 0` and `KEYVALID = 1`, and the instance is the one of that key. -/
def Obligations.NewCallMakesTheInstance : Prop :=
  ∀ (s : State) (fuel : Nat), s.op = .idle →
    (∀ key : Vector Byte 10, latencyOf .keyexp80 ≤ fuel →
      ∃ t, runNew fuel key.toList s = some (.made, t) ∧
        runLines fuel (newCall key.toList) s = some ([statusByte t], t) ∧ t.err = 0 ∧ t.op = .idle ∧
        t.keyvalid = true ∧ t.keysize = false ∧ t.rk = ks80 key ∧ t.dout = s.dout ∧ t.dvalid = s.dvalid) ∧
    (∀ key : Vector Byte 16, latencyOf .keyexp128 ≤ fuel →
      ∃ t, runNew fuel key.toList s = some (.made, t) ∧
        runLines fuel (newCall key.toList) s = some ([statusByte t], t) ∧ t.err = 0 ∧ t.op = .idle ∧
        t.keyvalid = true ∧ t.keysize = true ∧ t.rk = ks128 key ∧ t.dout = s.dout ∧ t.dvalid = s.dvalid)

/-- `new(key)` with a key of any other length up to 255 (R73, R151): the polled `STATUS` has `ERR = 1`, the call fails
with invalid-key-size of that length, read from `ERRLEN`, which changes nothing but `rdata`, and an instance that
existed still exists. -/
def Obligations.NewCallWithBadLengthFails : Prop :=
  ∀ (s : State) (fuel : Nat) (key : List Byte), s.op = .idle → 1 ≤ fuel → key.length ≤ 255 → key.length ≠ 10 →
    key.length ≠ 16 →
    ∃ t, runLines fuel (newCall key) s = some ([statusByte t], t) ∧ t.err = 1 ∧ t.errlen.toNat = key.length ∧
      runNew fuel key s = some (.invalidKeySize t.errlen, { t with rdata := t.errlen }) ∧
      t.op = .idle ∧ t.keyvalid = s.keyvalid ∧ t.keysize = s.keysize ∧ t.rk = s.rk ∧ t.dout = s.dout ∧
      t.dvalid = s.dvalid

/-- `encrypt` and then `decrypt` of the bytes it returned give the block back, on the hardware (R73, R127): from every
idle engine with an instance, under every latency. -/
def Obligations.EncryptThenDecryptCallsReturnTheBlock : Prop :=
  ∀ (s : State) (b : Block) (fuel : Nat), s.op = .idle → s.keyvalid = true → latencyOf .enc ≤ fuel →
    latencyOf .dec ≤ fuel →
    ∃ t u, runLines fuel (encryptCall b.toList) s = some (statusByte t :: (encrypt s.rk b).toList, t) ∧
      runLines fuel (decryptCall (encrypt s.rk b).toList) t = some (statusByte u :: b.toList, u) ∧
      t.err = 0 ∧ u.err = 0 ∧ u.rk = s.rk ∧ u.keyvalid = true ∧ u.op = .idle

/-- `block_size()` returns 8 from every state (R73, R144). -/
def Obligations.BlockSizeCallReturnsEight : Prop :=
  ∀ (s : State) (fuel : Nat), ∃ t, runLines fuel blockSizeCall s = some ([8], t)
end

