-- ==== Sys2Proof/Laws/Cipher.lean ====
section
/-! SUPPORT. For each datapath function, what stands at a position of its result. -/

namespace Sys2Proof.Machine

/-- A position of `Unpack` (R84). -/
theorem getElem_unpack {n : Nat} (b : Vector Byte n) (i : Nat) (h : i < 2 * n) :
    (unpack b)[i] =
      if i % 2 = 0 then hiNibble (b[i / 2]'(by omega)) else loNibble (b[i / 2]'(by omega)) := by
  simp [unpack]

/-- A byte of `Pack` (R85). -/
theorem getElem_pack (x : Nibbles16) (k : Nat) (h : k < 8) : (pack x)[k] = x[2 * k] ++ x[2 * k + 1] := by
  simp [pack]

/-- A position of `FeistelStep` (R86). -/
theorem getElem_feistelStep (x : Nibbles16) (k : RoundKey) (i : Nat) (h : i < 16) :
    (feistelStep x k)[i] = if i % 2 = 0 then x[i] else laneOut x k ⟨i / 2, by omega⟩ := by
  simp [feistelStep]

/-- A position of the block after one lane alone (R124). -/
theorem getElem_feistelLane (k : RoundKey) (x : Nibbles16) (j : Fin 8) (i : Nat) (h : i < 16) :
    (feistelLane k x j)[i] = if 2 * j.val + 1 = i then laneOut x k j else x[i] := by
  simp [feistelLane, Vector.getElem_set]

/-- A position of the injection (R65). -/
theorem getElem_inject {n : Nat} (hn : 20 ≤ n) (w : Vector Nibble n) (c : BitVec 6) (i : Nat) (h : i < n) :
    (inject hn w c)[i] =
      if i = 19 then w[19] ^^^ rconLo c else if i = 7 then w[7] ^^^ rconHi c else w[i] := by
  by_cases h19 : i = 19
  · subst h19; simp [inject]
  · by_cases h7 : i = 7
    · subst h7; simp [inject]
    · simp [inject, h19, h7, Ne.symm h19, Ne.symm h7]

/-- A position of the rotation (R106). -/
theorem getElem_rotate {n : Nat} (hn : 20 ≤ n) (w : Vector Nibble n) (p : Nat) (h : p < n) :
    (rotate hn w)[p] =
      if h : p + 4 < n then w[p + 4]
      else if p + 4 = n then w[1] else if p + 3 = n then w[2] else if p + 2 = n then w[3] else w[0] := by
  simp [rotate]

/-- A position after the mix of the 80-bit schedule (R103). -/
theorem getElem_mix80 (w : Vector Nibble 20) (i : Nat) (h : i < 20) :
    (mix80 w)[i] =
      if i = 4 then w[4] ^^^ sbox w[16] else if i = 1 then w[1] ^^^ sbox w[0] else w[i] := by
  by_cases h4 : i = 4
  · subst h4; simp [mix80]
  · by_cases h1 : i = 1
    · subst h1; simp [mix80]
    · simp [mix80, h4, h1, Ne.symm h4, Ne.symm h1]

/-- A position after the mix of the 128-bit schedule (R104). -/
theorem getElem_mix128 (w : WorkKey) (i : Nat) (h : i < 32) :
    (mix128 w)[i] =
      if i = 23 then w[23] ^^^ sbox w[30] else if i = 4 then w[4] ^^^ sbox w[16]
      else if i = 1 then w[1] ^^^ sbox w[0] else w[i] := by
  by_cases h23 : i = 23
  · subst h23; simp [mix128]
  · by_cases h4 : i = 4
    · subst h4; simp [mix128]
    · by_cases h1 : i = 1
      · subst h1; simp [mix128]
      · simp [mix128, h23, h4, h1, Ne.symm h23, Ne.symm h4, Ne.symm h1]

/-- A row of a schedule: the tap after the updates before it (R103, R104). -/
theorem getElem_schedule {α : Type} (tap : α → RoundKey) (update : α → BitVec 6 → α) (w : α) (i : Nat)
    (h : i < 36) : (schedule tap update w)[i] = tap (afterUpdates update i w) := by
  simp [schedule]

/-- No update has happened before the first tap. -/
@[simp] theorem afterUpdates_zero {α : Type} (update : α → BitVec 6 → α) (w : α) :
    afterUpdates update 0 w = w := by simp [afterUpdates]

/-- One more update takes the next round constant. -/
theorem afterUpdates_succ {α : Type} (update : α → BitVec 6 → α) (w : α) (k : Nat) (h : k < 35) :
    afterUpdates update (k + 1) w = update (afterUpdates update k w) rconRom[k] := by
  have hk : k < rconRom.toList.length := by simpa using h
  simp only [afterUpdates, List.take_succ_eq_append_getElem hk, List.foldl_append, List.foldl_cons, List.foldl_nil,
    Vector.getElem_toList]

end Sys2Proof.Machine
end

