-- ==== Sys2Proof/Laws/State.lean ====
section
/-! SUPPORT. One lemma per field per update of State, so that no later proof unfolds a record update. -/

namespace Sys2Proof.Machine

@[simp] theorem clearErr_rk (s : State) : (clearErr s).rk = s.rk := rfl
@[simp] theorem clearErr_wk (s : State) : (clearErr s).wk = s.wk := rfl
@[simp] theorem clearErr_x (s : State) : (clearErr s).x = s.x := rfl
@[simp] theorem clearErr_key (s : State) : (clearErr s).key = s.key := rfl
@[simp] theorem clearErr_keylen (s : State) : (clearErr s).keylen = s.keylen := rfl
@[simp] theorem clearErr_din (s : State) : (clearErr s).din = s.din := rfl
@[simp] theorem clearErr_dout (s : State) : (clearErr s).dout = s.dout := rfl
@[simp] theorem clearErr_keyvalid (s : State) : (clearErr s).keyvalid = s.keyvalid := rfl
@[simp] theorem clearErr_keysize (s : State) : (clearErr s).keysize = s.keysize := rfl
@[simp] theorem clearErr_dvalid (s : State) : (clearErr s).dvalid = s.dvalid := rfl
@[simp] theorem clearErr_err (s : State) : (clearErr s).err = codeOk := rfl
@[simp] theorem clearErr_errlen (s : State) : (clearErr s).errlen = s.errlen := rfl
@[simp] theorem clearErr_op (s : State) : (clearErr s).op = s.op := rfl
@[simp] theorem clearErr_cnt (s : State) : (clearErr s).cnt = s.cnt := rfl
@[simp] theorem clearErr_rdata (s : State) : (clearErr s).rdata = s.rdata := rfl
@[simp] theorem clearErr_inputs (s : State) : (clearErr s).inputs = s.inputs := rfl
@[simp] theorem clearErr_freeCtr (s : State) : (clearErr s).freeCtr = s.freeCtr := rfl

@[simp] theorem acceptKeyexp_rk (s : State) (w : WorkKey) (o : Op) (n : Nat) : (acceptKeyexp s w o n).rk = s.rk := rfl
@[simp] theorem acceptKeyexp_wk (s : State) (w : WorkKey) (o : Op) (n : Nat) : (acceptKeyexp s w o n).wk = w := rfl
@[simp] theorem acceptKeyexp_x (s : State) (w : WorkKey) (o : Op) (n : Nat) : (acceptKeyexp s w o n).x = s.x := rfl
@[simp] theorem acceptKeyexp_key (s : State) (w : WorkKey) (o : Op) (n : Nat) : (acceptKeyexp s w o n).key = s.key := rfl
@[simp] theorem acceptKeyexp_keylen (s : State) (w : WorkKey) (o : Op) (n : Nat) : (acceptKeyexp s w o n).keylen = s.keylen := rfl
@[simp] theorem acceptKeyexp_din (s : State) (w : WorkKey) (o : Op) (n : Nat) : (acceptKeyexp s w o n).din = s.din := rfl
@[simp] theorem acceptKeyexp_dout (s : State) (w : WorkKey) (o : Op) (n : Nat) : (acceptKeyexp s w o n).dout = s.dout := rfl
@[simp] theorem acceptKeyexp_keyvalid (s : State) (w : WorkKey) (o : Op) (n : Nat) : (acceptKeyexp s w o n).keyvalid = false := rfl
@[simp] theorem acceptKeyexp_keysize (s : State) (w : WorkKey) (o : Op) (n : Nat) : (acceptKeyexp s w o n).keysize = s.keysize := rfl
@[simp] theorem acceptKeyexp_dvalid (s : State) (w : WorkKey) (o : Op) (n : Nat) : (acceptKeyexp s w o n).dvalid = s.dvalid := rfl
@[simp] theorem acceptKeyexp_err (s : State) (w : WorkKey) (o : Op) (n : Nat) : (acceptKeyexp s w o n).err = codeOk := rfl
@[simp] theorem acceptKeyexp_errlen (s : State) (w : WorkKey) (o : Op) (n : Nat) : (acceptKeyexp s w o n).errlen = s.errlen := rfl
@[simp] theorem acceptKeyexp_op (s : State) (w : WorkKey) (o : Op) (n : Nat) : (acceptKeyexp s w o n).op = o := rfl
@[simp] theorem acceptKeyexp_cnt (s : State) (w : WorkKey) (o : Op) (n : Nat) : (acceptKeyexp s w o n).cnt = n := rfl
@[simp] theorem acceptKeyexp_rdata (s : State) (w : WorkKey) (o : Op) (n : Nat) : (acceptKeyexp s w o n).rdata = s.rdata := rfl
@[simp] theorem acceptKeyexp_inputs (s : State) (w : WorkKey) (o : Op) (n : Nat) : (acceptKeyexp s w o n).inputs = s.inputs := rfl
@[simp] theorem acceptKeyexp_freeCtr (s : State) (w : WorkKey) (o : Op) (n : Nat) : (acceptKeyexp s w o n).freeCtr = s.freeCtr := rfl

@[simp] theorem acceptTransform_rk (s : State) (x : Nibbles16) (o : Op) (n : Nat) :
    (acceptTransform s x o n).rk = s.rk := rfl
@[simp] theorem acceptTransform_wk (s : State) (x : Nibbles16) (o : Op) (n : Nat) :
    (acceptTransform s x o n).wk = s.wk := rfl
@[simp] theorem acceptTransform_x (s : State) (x : Nibbles16) (o : Op) (n : Nat) :
    (acceptTransform s x o n).x = x := rfl
@[simp] theorem acceptTransform_key (s : State) (x : Nibbles16) (o : Op) (n : Nat) :
    (acceptTransform s x o n).key = s.key := rfl
@[simp] theorem acceptTransform_keylen (s : State) (x : Nibbles16) (o : Op) (n : Nat) :
    (acceptTransform s x o n).keylen = s.keylen := rfl
@[simp] theorem acceptTransform_din (s : State) (x : Nibbles16) (o : Op) (n : Nat) :
    (acceptTransform s x o n).din = s.din := rfl
@[simp] theorem acceptTransform_dout (s : State) (x : Nibbles16) (o : Op) (n : Nat) :
    (acceptTransform s x o n).dout = s.dout := rfl
@[simp] theorem acceptTransform_keyvalid (s : State) (x : Nibbles16) (o : Op) (n : Nat) :
    (acceptTransform s x o n).keyvalid = s.keyvalid := rfl
@[simp] theorem acceptTransform_keysize (s : State) (x : Nibbles16) (o : Op) (n : Nat) :
    (acceptTransform s x o n).keysize = s.keysize := rfl
@[simp] theorem acceptTransform_dvalid (s : State) (x : Nibbles16) (o : Op) (n : Nat) :
    (acceptTransform s x o n).dvalid = s.dvalid := rfl
@[simp] theorem acceptTransform_err (s : State) (x : Nibbles16) (o : Op) (n : Nat) :
    (acceptTransform s x o n).err = codeOk := rfl
@[simp] theorem acceptTransform_errlen (s : State) (x : Nibbles16) (o : Op) (n : Nat) :
    (acceptTransform s x o n).errlen = s.errlen := rfl
@[simp] theorem acceptTransform_op (s : State) (x : Nibbles16) (o : Op) (n : Nat) :
    (acceptTransform s x o n).op = o := rfl
@[simp] theorem acceptTransform_cnt (s : State) (x : Nibbles16) (o : Op) (n : Nat) :
    (acceptTransform s x o n).cnt = n := rfl
@[simp] theorem acceptTransform_rdata (s : State) (x : Nibbles16) (o : Op) (n : Nat) :
    (acceptTransform s x o n).rdata = s.rdata := rfl
@[simp] theorem acceptTransform_inputs (s : State) (x : Nibbles16) (o : Op) (n : Nat) :
    (acceptTransform s x o n).inputs = s.inputs := rfl
@[simp] theorem acceptTransform_freeCtr (s : State) (x : Nibbles16) (o : Op) (n : Nat) :
    (acceptTransform s x o n).freeCtr = s.freeCtr := rfl

@[simp] theorem completeKeyexp_rk (s : State) (r : RoundKeys) (b : Bool) : (completeKeyexp s r b).rk = r := rfl
@[simp] theorem completeKeyexp_wk (s : State) (r : RoundKeys) (b : Bool) : (completeKeyexp s r b).wk = Vector.replicate 32 0 := rfl
@[simp] theorem completeKeyexp_x (s : State) (r : RoundKeys) (b : Bool) : (completeKeyexp s r b).x = s.x := rfl
@[simp] theorem completeKeyexp_key (s : State) (r : RoundKeys) (b : Bool) : (completeKeyexp s r b).key = s.key := rfl
@[simp] theorem completeKeyexp_keylen (s : State) (r : RoundKeys) (b : Bool) : (completeKeyexp s r b).keylen = s.keylen := rfl
@[simp] theorem completeKeyexp_din (s : State) (r : RoundKeys) (b : Bool) : (completeKeyexp s r b).din = s.din := rfl
@[simp] theorem completeKeyexp_dout (s : State) (r : RoundKeys) (b : Bool) : (completeKeyexp s r b).dout = s.dout := rfl
@[simp] theorem completeKeyexp_keyvalid (s : State) (r : RoundKeys) (b : Bool) : (completeKeyexp s r b).keyvalid = true := rfl
@[simp] theorem completeKeyexp_keysize (s : State) (r : RoundKeys) (b : Bool) : (completeKeyexp s r b).keysize = b := rfl
@[simp] theorem completeKeyexp_dvalid (s : State) (r : RoundKeys) (b : Bool) : (completeKeyexp s r b).dvalid = s.dvalid := rfl
@[simp] theorem completeKeyexp_err (s : State) (r : RoundKeys) (b : Bool) : (completeKeyexp s r b).err = s.err := rfl
@[simp] theorem completeKeyexp_errlen (s : State) (r : RoundKeys) (b : Bool) : (completeKeyexp s r b).errlen = s.errlen := rfl
@[simp] theorem completeKeyexp_op (s : State) (r : RoundKeys) (b : Bool) : (completeKeyexp s r b).op = .idle := rfl
@[simp] theorem completeKeyexp_cnt (s : State) (r : RoundKeys) (b : Bool) : (completeKeyexp s r b).cnt = s.cnt := rfl
@[simp] theorem completeKeyexp_rdata (s : State) (r : RoundKeys) (b : Bool) : (completeKeyexp s r b).rdata = s.rdata := rfl
@[simp] theorem completeKeyexp_inputs (s : State) (r : RoundKeys) (b : Bool) : (completeKeyexp s r b).inputs = s.inputs := rfl
@[simp] theorem completeKeyexp_freeCtr (s : State) (r : RoundKeys) (b : Bool) : (completeKeyexp s r b).freeCtr = s.freeCtr := rfl

@[simp] theorem completeTransform_rk (s : State) (y : Nibbles16) : (completeTransform s y).rk = s.rk := rfl
@[simp] theorem completeTransform_wk (s : State) (y : Nibbles16) : (completeTransform s y).wk = s.wk := rfl
@[simp] theorem completeTransform_x (s : State) (y : Nibbles16) : (completeTransform s y).x = y := rfl
@[simp] theorem completeTransform_key (s : State) (y : Nibbles16) : (completeTransform s y).key = s.key := rfl
@[simp] theorem completeTransform_keylen (s : State) (y : Nibbles16) : (completeTransform s y).keylen = s.keylen := rfl
@[simp] theorem completeTransform_din (s : State) (y : Nibbles16) : (completeTransform s y).din = s.din := rfl
@[simp] theorem completeTransform_dout (s : State) (y : Nibbles16) : (completeTransform s y).dout = pack y := rfl
@[simp] theorem completeTransform_keyvalid (s : State) (y : Nibbles16) : (completeTransform s y).keyvalid = s.keyvalid := rfl
@[simp] theorem completeTransform_keysize (s : State) (y : Nibbles16) : (completeTransform s y).keysize = s.keysize := rfl
@[simp] theorem completeTransform_dvalid (s : State) (y : Nibbles16) : (completeTransform s y).dvalid = true := rfl
@[simp] theorem completeTransform_err (s : State) (y : Nibbles16) : (completeTransform s y).err = s.err := rfl
@[simp] theorem completeTransform_errlen (s : State) (y : Nibbles16) : (completeTransform s y).errlen = s.errlen := rfl
@[simp] theorem completeTransform_op (s : State) (y : Nibbles16) : (completeTransform s y).op = .idle := rfl
@[simp] theorem completeTransform_cnt (s : State) (y : Nibbles16) : (completeTransform s y).cnt = s.cnt := rfl
@[simp] theorem completeTransform_rdata (s : State) (y : Nibbles16) : (completeTransform s y).rdata = s.rdata := rfl
@[simp] theorem completeTransform_inputs (s : State) (y : Nibbles16) : (completeTransform s y).inputs = s.inputs := rfl
@[simp] theorem completeTransform_freeCtr (s : State) (y : Nibbles16) : (completeTransform s y).freeCtr = s.freeCtr := rfl

@[simp] theorem takePorts_rk (s : State) : (takePorts s).rk = s.rk := rfl
@[simp] theorem takePorts_wk (s : State) : (takePorts s).wk = s.wk := rfl
@[simp] theorem takePorts_x (s : State) : (takePorts s).x = s.x := rfl
@[simp] theorem takePorts_key (s : State) : (takePorts s).key = s.key := rfl
@[simp] theorem takePorts_keylen (s : State) : (takePorts s).keylen = s.keylen := rfl
@[simp] theorem takePorts_din (s : State) : (takePorts s).din = s.din := rfl
@[simp] theorem takePorts_dout (s : State) : (takePorts s).dout = s.dout := rfl
@[simp] theorem takePorts_keyvalid (s : State) : (takePorts s).keyvalid = s.keyvalid := rfl
@[simp] theorem takePorts_keysize (s : State) : (takePorts s).keysize = s.keysize := rfl
@[simp] theorem takePorts_dvalid (s : State) : (takePorts s).dvalid = s.dvalid := rfl
@[simp] theorem takePorts_err (s : State) : (takePorts s).err = s.err := rfl
@[simp] theorem takePorts_errlen (s : State) : (takePorts s).errlen = s.errlen := rfl
@[simp] theorem takePorts_op (s : State) : (takePorts s).op = s.op := rfl
@[simp] theorem takePorts_cnt (s : State) : (takePorts s).cnt = s.cnt := rfl
@[simp] theorem takePorts_rdata (s : State) : (takePorts s).rdata = s.rdata := rfl
@[simp] theorem takePorts_inputs (s : State) : (takePorts s).inputs = s.inputs.tail := rfl
@[simp] theorem takePorts_freeCtr (s : State) : (takePorts s).freeCtr = s.freeCtr := rfl

@[simp] theorem resetEdge_rk (s : State) : (resetEdge s).rk = Config.rkAfterReset s.freeCtr := rfl
@[simp] theorem resetEdge_wk (s : State) : (resetEdge s).wk = State.reset.wk := rfl
@[simp] theorem resetEdge_x (s : State) : (resetEdge s).x = State.reset.x := rfl
@[simp] theorem resetEdge_key (s : State) : (resetEdge s).key = State.reset.key := rfl
@[simp] theorem resetEdge_keylen (s : State) : (resetEdge s).keylen = State.reset.keylen := rfl
@[simp] theorem resetEdge_din (s : State) : (resetEdge s).din = State.reset.din := rfl
@[simp] theorem resetEdge_dout (s : State) : (resetEdge s).dout = State.reset.dout := rfl
@[simp] theorem resetEdge_keyvalid (s : State) : (resetEdge s).keyvalid = State.reset.keyvalid := rfl
@[simp] theorem resetEdge_keysize (s : State) : (resetEdge s).keysize = State.reset.keysize := rfl
@[simp] theorem resetEdge_dvalid (s : State) : (resetEdge s).dvalid = State.reset.dvalid := rfl
@[simp] theorem resetEdge_err (s : State) : (resetEdge s).err = State.reset.err := rfl
@[simp] theorem resetEdge_errlen (s : State) : (resetEdge s).errlen = State.reset.errlen := rfl
@[simp] theorem resetEdge_op (s : State) : (resetEdge s).op = State.reset.op := rfl
@[simp] theorem resetEdge_cnt (s : State) : (resetEdge s).cnt = State.reset.cnt := rfl
@[simp] theorem resetEdge_rdata (s : State) : (resetEdge s).rdata = State.reset.rdata := rfl
@[simp] theorem resetEdge_inputs (s : State) : (resetEdge s).inputs = s.inputs := rfl
@[simp] theorem resetEdge_freeCtr (s : State) : (resetEdge s).freeCtr = s.freeCtr + 1 := rfl

@[simp] theorem raise_rk (s : State) (e : CmdError) : (raise s e).rk = s.rk := by cases e <;> rfl
@[simp] theorem raise_wk (s : State) (e : CmdError) : (raise s e).wk = s.wk := by cases e <;> rfl
@[simp] theorem raise_x (s : State) (e : CmdError) : (raise s e).x = s.x := by cases e <;> rfl
@[simp] theorem raise_key (s : State) (e : CmdError) : (raise s e).key = s.key := by cases e <;> rfl
@[simp] theorem raise_keylen (s : State) (e : CmdError) : (raise s e).keylen = s.keylen := by cases e <;> rfl
@[simp] theorem raise_din (s : State) (e : CmdError) : (raise s e).din = s.din := by cases e <;> rfl
@[simp] theorem raise_dout (s : State) (e : CmdError) : (raise s e).dout = s.dout := by cases e <;> rfl
@[simp] theorem raise_keyvalid (s : State) (e : CmdError) : (raise s e).keyvalid = s.keyvalid := by cases e <;> rfl
@[simp] theorem raise_keysize (s : State) (e : CmdError) : (raise s e).keysize = s.keysize := by cases e <;> rfl
@[simp] theorem raise_dvalid (s : State) (e : CmdError) : (raise s e).dvalid = s.dvalid := by cases e <;> rfl
@[simp] theorem raise_err (s : State) (e : CmdError) : (raise s e).err = errCode e := by cases e <;> rfl
@[simp] theorem raise_op (s : State) (e : CmdError) : (raise s e).op = s.op := by cases e <;> rfl
@[simp] theorem raise_cnt (s : State) (e : CmdError) : (raise s e).cnt = s.cnt := by cases e <;> rfl
@[simp] theorem raise_rdata (s : State) (e : CmdError) : (raise s e).rdata = s.rdata := by cases e <;> rfl
@[simp] theorem raise_inputs (s : State) (e : CmdError) : (raise s e).inputs = s.inputs := by cases e <;> rfl
@[simp] theorem raise_freeCtr (s : State) (e : CmdError) : (raise s e).freeCtr = s.freeCtr := by cases e <;> rfl

@[simp] theorem raise_errlen_invalidKeySize (s : State) (l : Byte) :
    (raise s (.invalidKeySize l)).errlen = l := rfl
@[simp] theorem raise_errlen_noKey (s : State) : (raise s .noKey).errlen = s.errlen := rfl
@[simp] theorem raise_errlen_illegalCmd (s : State) : (raise s .illegalCmd).errlen = s.errlen := rfl
@[simp] theorem raise_errlen_busyViolation (s : State) : (raise s .busyViolation).errlen = s.errlen := rfl

/-- `BUSY` is `OP != IDLE`. -/
@[simp] theorem busy_eq_true (s : State) : busy s = true ↔ s.op ≠ .idle := by simp [busy]
@[simp] theorem busy_eq_false (s : State) : busy s = false ↔ s.op = .idle := by simp [busy]

end Sys2Proof.Machine
end

