-- ==== Sys2Proof/Laws/Ops.lean ====
section
/-! SUPPORT. For each shared operation, one lemma that says once everything it can do. -/

namespace Sys2Proof.Machine

/-- The map and its inverse: the address of the register at an address is that address. -/
theorem addrOf_regAt : ∀ a : Addr, addrOf (regAt a) = a := by decide

theorem regAt_key : ∀ k : Fin 16, regAt (addrOf (.key k)) = .key k := by decide
theorem regAt_din : ∀ k : Fin 8, regAt (addrOf (.din k)) = .din k := by decide
theorem regAt_dout : ∀ k : Fin 8, regAt (addrOf (.dout k)) = .dout k := by decide
theorem regAt_reserved : ∀ k : Fin 27, regAt (addrOf (.reserved k)) = .reserved k := by decide

/-- The register at the address of a register is that register. -/
@[simp] theorem regAt_addrOf (r : Reg) : regAt (addrOf r) = r := by
  cases r with
  | key k => exact regAt_key k
  | din k => exact regAt_din k
  | dout k => exact regAt_dout k
  | reserved k => exact regAt_reserved k
  | cmd | status | keylen | errlen | blksize => decide

/-- What a read answers, register by register (R141). -/
theorem readReg_addrOf (s : State) (r : Reg) :
    readReg s (addrOf r) =
      match r with
      | .key k => s.key[k.val]
      | .din k => s.din[k.val]
      | .dout k => s.dout[k.val]
      | .cmd => 0x00
      | .status => statusByte s
      | .keylen => s.keylen
      | .errlen => s.errlen
      | .blksize => 0x08
      | .reserved _ => 0x00 := by
  cases r <;> simp only [readReg, regAt_addrOf]

/-- What a write outside `CMD` does, register by register (R140, R50). -/
theorem writeReg_addrOf (s : State) (r : Reg) (v : Byte) :
    writeReg s (addrOf r) v =
      match r with
      | .key k => { s with key := s.key.set k.val v }
      | .din k => { s with din := s.din.set k.val v }
      | .keylen => { s with keylen := v }
      | .dout _ | .cmd | .status | .errlen | .blksize | .reserved _ => s := by
  cases r <;> simp only [writeReg, regAt_addrOf]

/-- Everything a write outside `CMD` can do: it changes one of `KEY`, `DIN`, `KEYLEN` or nothing. -/
theorem writeReg_cases (s : State) (a : Addr) (v : Byte) :
    (∃ k : Fin 16, writeReg s a v = { s with key := s.key.set k.val v }) ∨
    (∃ k : Fin 8, writeReg s a v = { s with din := s.din.set k.val v }) ∨
    writeReg s a v = { s with keylen := v } ∨ writeReg s a v = s := by
  unfold writeReg
  cases regAt a with
  | key k => exact .inl ⟨k, rfl⟩
  | din k => exact .inr (.inl ⟨k, rfl⟩)
  | keylen => exact .inr (.inr (.inl rfl))
  | dout | cmd | status | errlen | blksize | reserved => exact .inr (.inr (.inr rfl))

/-- Everything a tick can do (R178). -/
theorem engineTick_cases (s : State) :
    (s.op = .idle ∧ engineTick s = s) ∨
    (s.op ≠ .idle ∧ 1 < s.cnt ∧ engineTick s = { s with cnt := s.cnt - 1 }) ∨
    (s.op ≠ .idle ∧ s.cnt ≤ 1 ∧ engineTick s = complete { s with cnt := 0 }) := by
  by_cases h : s.op = .idle
  · exact .inl ⟨h, by simp [engineTick, h]⟩
  · by_cases hc : s.cnt - 1 = 0
    · exact .inr (.inr ⟨h, by omega, by simp [engineTick, h, hc]⟩)
    · exact .inr (.inl ⟨h, by omega, by simp [engineTick, h, hc]⟩)

/-- Everything a completion can do, by the command in flight (R107, R120, R121). -/
theorem complete_cases (s : State) :
    (s.op = .idle ∧ complete s = s) ∨
    (s.op = .keyexp80 ∧ complete s = completeKeyexp s (schedule80 (wkLow s.wk)) false) ∨
    (s.op = .keyexp128 ∧ complete s = completeKeyexp s (schedule128 s.wk) true) ∨
    (s.op = .enc ∧ complete s = completeTransform s (encryptNibbles s.rk s.x)) ∨
    (s.op = .dec ∧ complete s = completeTransform s (decryptNibbles s.rk s.x)) := by
  cases h : s.op <;> simp [complete, h]

/-- A completion leaves the engine idle (R178). -/
@[simp] theorem complete_op (s : State) : (complete s).op = .idle := by
  cases h : s.op <;> simp [complete, h]

/-- The tick neither reads nor changes the host's coming cycles. -/
theorem engineTick_inputs (s : State) (ps : List Ports) :
    engineTick { s with inputs := ps } = { engineTick s with inputs := ps } := by
  by_cases ho : s.op = .idle
  · simp [engineTick, ho]
  · by_cases hc : s.cnt - 1 = 0
    · cases hop : s.op <;> simp [engineTick, hc, hop, complete, completeKeyexp, completeTransform]
    · simp [engineTick, ho, hc]

/-- On an idle engine the byte 0x01 runs KEYEXP (R143). -/
theorem command_keyexp {s : State} (hb : s.op = .idle) : command s 0x01 = execKeyexp s := by
  have hbusy : busy s = false := by simpa using hb
  simp [command, hbusy]

/-- Everything the write of a command byte can do (R142, R143, R150, R155): refuse, clear `ERR`, or start a command,
with what was checked. -/
theorem command_cases (s : State) (v : Byte) :
    (s.op ≠ .idle ∧ command s v = .next (raise s .busyViolation)) ∨
    (s.op = .idle ∧ 3 < v.toNat ∧ command s v = .next (raise s .illegalCmd)) ∨
    (s.op = .idle ∧ v = 0x00 ∧ command s v = .next (clearErr s)) ∨
    (s.op = .idle ∧ v = 0x01 ∧ s.keylen ≠ 10 ∧ s.keylen ≠ 16 ∧
      command s v = .next (raise s (.invalidKeySize s.keylen))) ∨
    (s.op = .idle ∧ v = 0x01 ∧ s.keylen = 10 ∧
      command s v = .next (acceptKeyexp s (loadWk80 s.key) .keyexp80 Config.latKeyexp80)) ∨
    (s.op = .idle ∧ v = 0x01 ∧ s.keylen = 16 ∧
      command s v = .next (acceptKeyexp s (loadWk128 s.key) .keyexp128 Config.latKeyexp128)) ∨
    (s.op = .idle ∧ (v = 0x02 ∨ v = 0x03) ∧ s.keyvalid = false ∧ command s v = .next (raise s .noKey)) ∨
    (s.op = .idle ∧ v = 0x02 ∧ s.keyvalid = true ∧
      command s v = .next (acceptTransform s (loadX s.din) .enc Config.latEnc)) ∨
    (s.op = .idle ∧ v = 0x03 ∧ s.keyvalid = true ∧
      command s v = .next (acceptTransform s (loadX s.din) .dec Config.latDec)) := by
  by_cases hb : s.op = .idle
  · have hbusy : busy s = false := by simpa using hb
    by_cases hv : 3 < v.toNat
    · simp [command, hb, hbusy, hv]
    · have h4 : v = 0x00 ∨ v = 0x01 ∨ v = 0x02 ∨ v = 0x03 := by
        have : v.toNat = 0 ∨ v.toNat = 1 ∨ v.toNat = 2 ∨ v.toNat = 3 := by omega
        simpa [← BitVec.toNat_inj] using this
      rcases h4 with rfl | rfl | rfl | rfl
      · simp [command, execNop, hb, hbusy]
      · by_cases h10 : s.keylen = 10
        · exact .inr (.inr (.inr (.inr (.inl ⟨hb, rfl, h10, by
            simp only [command_keyexp hb, execKeyexp, hbusy, if_pos h10]; rfl⟩))))
        · by_cases h16 : s.keylen = 16
          · exact .inr (.inr (.inr (.inr (.inr (.inl ⟨hb, rfl, h16, by
              simp only [command_keyexp hb, execKeyexp, hbusy, if_neg h10, if_pos h16]; rfl⟩)))))
          · exact .inr (.inr (.inr (.inl ⟨hb, rfl, h10, h16, by
              simp only [command_keyexp hb, execKeyexp, hbusy, if_neg h10, if_neg h16]; rfl⟩)))
      · cases hk : s.keyvalid <;> simp [command, execEnc, hb, hbusy, hk]
      · cases hk : s.keyvalid <;> simp [command, execDec, hb, hbusy, hk]
  · simp [command, busy, hb]

end Sys2Proof.Machine
end

