-- ==== Sys2Proof/Laws/Clock.lean ====
section
/-! SUPPORT. What one clock edge and one step can do. -/

namespace Sys2Proof.Machine

/-- The fields of a bus word are the ports it was put together from (R60). -/
@[simp] theorem fieldWe_joinBus (we : Bool) (a : Addr) (v : Byte) : fieldWe (joinBus we a v) = we := by
  simp only [fieldWe, joinBus, BitVec.getLsbD_append]
  cases we <;> rfl

@[simp] theorem fieldAddr_joinBus (we : Bool) (a : Addr) (v : Byte) : fieldAddr (joinBus we a v) = a := by
  apply BitVec.eq_of_getLsbD_eq
  intro i hi
  simp only [fieldAddr, joinBus, BitVec.getLsbD_extractLsb', BitVec.getLsbD_append]
  have h1 : ¬ 8 + i < 8 := by omega
  have h2 : 8 + i - 8 < 6 := by omega
  simp [hi, h1]

@[simp] theorem fieldWdata_joinBus (we : Bool) (a : Addr) (v : Byte) : fieldWdata (joinBus we a v) = v := by
  apply BitVec.eq_of_getLsbD_eq
  intro i hi
  simp only [fieldWdata, joinBus, BitVec.getLsbD_extractLsb', BitVec.getLsbD_append]
  simp [hi]

/-- What a bus word on the ports is as an instruction (R62). -/
theorem decodeBus_portsWord (p : Ports) :
    decodeBus (portsWord p) = if p.we then .wr p.addr p.wdata else .rd p.addr := by
  simp [decodeBus, portsWord]

/-- A bus word is put together from its fields (R60). -/
theorem joinBus_fields (w : BusWord) : joinBus (fieldWe w) (fieldAddr w) (fieldWdata w) = w := by
  apply BitVec.eq_of_getLsbD_eq
  intro i hi
  simp only [joinBus, fieldWe, fieldAddr, fieldWdata, BitVec.getLsbD_append, BitVec.getLsbD_extractLsb',
    BitVec.getLsbD_ofBool]
  by_cases h8 : i < 8
  · simp [h8]
  · by_cases h14 : i < 14
    · have h1 : i - 8 < 6 := by omega
      have h2 : 8 + (i - 8) = i := by omega
      simp [h8, h1, h2]
    · have h1 : i = 14 := by omega
      subst h1
      simp

/-- A cycle that carries a bus word runs the instruction the word decodes to, after the tick (R45, R60). -/
theorem clockEdge_wordPorts (w : BusWord) (s : State) :
    clockEdge (wordPorts w) s = exec (decodeBus w) { engineTick s with rdata := 0 } := by
  have h : portsWord (wordPorts w) = w := joinBus_fields w
  rw [clockEdge, h]
  rfl

/-- A command always answers a next state: every case of `command_cases` is one. -/
theorem command_next (s : State) (v : Byte) : ∃ t, command s v = .next t := by
  rcases command_cases s v with ⟨-, h⟩ | ⟨-, -, h⟩ | ⟨-, -, h⟩ | ⟨-, -, -, -, h⟩ | ⟨-, -, -, h⟩ | ⟨-, -, -, h⟩ |
    ⟨-, -, -, h⟩ | ⟨-, -, -, h⟩ | ⟨-, -, -, h⟩ <;> exact ⟨_, h⟩

/-- What `WR` does: a command at `CMD`, the register write elsewhere (R140). -/
theorem execWr_eq (a : Addr) (v : Byte) (s : State) :
    execWr a v s = if regAt a = .cmd then command s v else .next (writeReg s a v) := by
  unfold execWr
  cases regAt a <;> simp

/-- A clock edge in reset (R170). -/
theorem clockEdge_reset {p : Ports} (s : State) (h : p.rst = true) :
    clockEdge p s = .next (resetEdge s) := by simp [clockEdge, h]

/-- A clock edge without a bus access: the tick alone. -/
theorem clockEdge_idle {p : Ports} (s : State) (h : p.rst = false) (hs : p.sel = false) :
    clockEdge p s = .next { engineTick s with rdata := 0 } := by simp [clockEdge, h, hs]

/-- A clock edge with a write. -/
theorem clockEdge_wr {p : Ports} (s : State) (h : p.rst = false) (hs : p.sel = true) (hw : p.we = true) :
    clockEdge p s = execWr p.addr p.wdata { engineTick s with rdata := 0 } := by
  simp [clockEdge, h, hs, decodeBus_portsWord, hw, exec]

/-- A clock edge with a read. -/
theorem clockEdge_rd {p : Ports} (s : State) (h : p.rst = false) (hs : p.sel = true) (hw : p.we = false) :
    clockEdge p s = execRd p.addr { engineTick s with rdata := 0 } := by
  simp [clockEdge, h, hs, decodeBus_portsWord, hw, exec]

/-- A step takes the next pending cycle. -/
theorem step_cons {s : State} {p : Ports} {ps : List Ports} (h : s.inputs = p :: ps) :
    step s = clockEdge p { s with inputs := ps } := by
  simp [step, nextPorts, takePorts, h]

/-- With no pending cycle a step is an idle cycle. -/
theorem step_nil {s : State} (h : s.inputs = []) : step s = clockEdge idlePorts s := by
  have : takePorts s = s := by simp [takePorts, h]; rw [← h]
  simp [step, nextPorts, h, this]

end Sys2Proof.Machine
end

