-- ==== Sys2Proof/Laws/Decode.lean ====
section
/-! SUPPORT. What the command decoder answers, said once. -/

namespace Sys2Proof

/-- The command decoder by the value of the byte (R62, R63). -/
theorem decodeCmd_eq : ∀ b : Byte, decodeCmd b =
    if b = 0x00 then .ok .nop else if b = 0x01 then .ok .keyexp else if b = 0x02 then .ok .enc
    else if b = 0x03 then .ok .dec else .error (.illegalCommand b) := by
  decide +kernel

/-- A byte that decodes is one of four, with its command (R62). -/
theorem decodeCmd_ok {b : Byte} {i : Instr} (h : decodeCmd b = .ok i) :
    (b = 0x00 ∧ i = .nop) ∨ (b = 0x01 ∧ i = .keyexp) ∨ (b = 0x02 ∧ i = .enc) ∨ (b = 0x03 ∧ i = .dec) := by
  rw [decodeCmd_eq] at h
  split_ifs at h with h0 h1 h2 h3
  all_goals cases h
  · exact .inl ⟨h0, rfl⟩
  · exact .inr (.inl ⟨h1, rfl⟩)
  · exact .inr (.inr (.inl ⟨h2, rfl⟩))
  · exact .inr (.inr (.inr ⟨h3, rfl⟩))

end Sys2Proof
end

