-- ==== Sys2Proof/Laws/PerInstr.lean ====
section
/-! SUPPORT. What holds of every instruction as syntax, one lemma a constructor. -/

namespace Sys2Proof.Laws.IssueCycle

open Sys2Proof Sys2Proof.Machine

/-- The instruction is well formed, and the cycle that issues it is a bus access outside reset that carries its bus
word; for a command that is a write to `CMD` (R40, R60, R62). -/
def Statement (i : Instr) : Prop :=
  i.wf = true ∧ (instrPorts i).rst = false ∧ (instrPorts i).sel = true ∧ portsWord (instrPorts i) = busWord i ∧
  match i with
  | .wr a v => instrPorts i = { rst := false, sel := true, we := true, addr := a, wdata := v }
  | .rd a => instrPorts i = { rst := false, sel := true, we := false, addr := a, wdata := 0 }
  | .nop | .keyexp | .enc | .dec => (instrPorts i).we = true ∧ (instrPorts i).addr = cmdAddr

theorem wr (a : Addr) (v : Byte) : Statement (.wr a v) :=
  ⟨rfl, rfl, rfl, joinBus_fields _, by simp [instrPorts, wordPorts, busWord, codeWord, encode]⟩

theorem rd (a : Addr) : Statement (.rd a) :=
  ⟨rfl, rfl, rfl, joinBus_fields _, by simp [instrPorts, wordPorts, busWord, codeWord, encode]⟩

theorem nop : Statement .nop := ⟨rfl, rfl, rfl, by decide, by decide⟩

theorem keyexp : Statement .keyexp := ⟨rfl, rfl, rfl, by decide, by decide⟩

theorem enc : Statement .enc := ⟨rfl, rfl, rfl, by decide, by decide⟩

theorem dec : Statement .dec := ⟨rfl, rfl, rfl, by decide, by decide⟩

end Sys2Proof.Laws.IssueCycle
end

