-- ==== Sys2Proof/Laws/Runs.lean ====
section
/-! SUPPORT. Runs of cycles, taken apart one cycle at a time. -/

namespace Sys2Proof.Machine

/-- No cycles: only what was pending is dropped. -/
theorem runCycles_nil (s : State) : runCycles [] s = .next { s with inputs := [] } := rfl

/-- The first cycle of a run, then the rest, where the first cycle answers a state with the rest pending. -/
theorem runCycles_cons {p : Ports} {ps : List Ports} {s t : State}
    (h : clockEdge p { s with inputs := ps } = .next t) (hi : t.inputs = ps) :
    runCycles (p :: ps) s = runCycles ps t := by
  have hs : Sys2Proof.core.step { s with inputs := p :: ps } = .next t :=
    (step_cons (s := { s with inputs := p :: ps }) rfl).trans h
  have ht : ({ t with inputs := ps } : State) = t := by rw [← hi]
  simp only [runCycles, List.length_cons, Host.Core.run, hs, ht]
  rfl

/-- The cycle of a bus write: the tick, then the write. -/
theorem clockEdge_wrCycle (a : Addr) (v : Byte) (s : State) :
    clockEdge (wrCycle a v) s = execWr a v { engineTick s with rdata := 0 } := by
  rw [wrCycle, instrPorts, clockEdge_wordPorts]
  simp [busWord, codeWord, encode, decodeBus, exec]

/-- The cycle of a bus read: the tick, then the read. -/
theorem clockEdge_rdCycle (a : Addr) (s : State) :
    clockEdge (rdCycle a) s = execRd a { engineTick s with rdata := 0 } := by
  rw [rdCycle, instrPorts, clockEdge_wordPorts]
  simp [busWord, codeWord, encode, decodeBus, exec]

/-- Bit 0 of `STATUS` is `BUSY` (R19). -/
@[simp] theorem statusByte_bit0 (s : State) : (statusByte s).getLsbD 0 = busy s := by
  simp only [statusByte, BitVec.getLsbD_append]
  cases busy s <;> rfl

/-- One read of a POLL: the tick, the read of `STATUS`, and on while it shows a command in flight (R72). -/
theorem pollLoop_succ (fuel : Nat) (s : State) :
    pollLoop (fuel + 1) s =
      if busy (engineTick s) then pollLoop fuel { engineTick s with rdata := statusByte (engineTick s) }
      else some (statusByte (engineTick s), { engineTick s with rdata := statusByte (engineTick s) }) := by
  have h : clockEdge (rdCycle (addrOf .status)) s =
      .next { engineTick s with rdata := statusByte (engineTick s) } := by
    rw [clockEdge_rdCycle]
    simp only [execRd, readReg_addrOf]
    rfl
  simp only [pollLoop, h, statusByte_bit0]

/-- The first cycle of a drive, then the rest. -/
theorem drive_cons {p : Ports} {ps : List Ports} {s t u : State} {bytes : List Byte} (h : clockEdge p s = .next t)
    (hd : drive ps t = some (bytes, u)) :
    drive (p :: ps) s = some (if isRead p then t.rdata :: bytes else bytes, u) := by
  simp only [drive, h, hd]

/-- The field `ERR` of the assembled `STATUS` is `ERR` (R19). -/
@[simp] theorem statusErr_statusByte (s : State) : statusErr (statusByte s) = s.err := by
  apply BitVec.eq_of_getLsbD_eq
  intro i hi
  simp only [statusErr, statusByte, BitVec.getLsbD_extractLsb', BitVec.getLsbD_append, hi]
  interval_cases i <;> simp

/-- The line `RD a`: the byte read after the tick (R72). -/
theorem runLine_rd (fuel : Nat) (a : Addr) (s : State) :
    runLine fuel (.rd a) s =
      some ([readReg { engineTick s with rdata := 0 } a],
        { engineTick s with rdata := readReg { engineTick s with rdata := 0 } a }) := by
  have h : drive [rdCycle a] s = some ([readReg { engineTick s with rdata := 0 } a],
      { engineTick s with rdata := readReg { engineTick s with rdata := 0 } a }) := by
    rw [drive_cons (ps := []) (clockEdge_rdCycle a s) rfl]
    simp [isRead, rdCycle, instrPorts, wordPorts, busWord, codeWord, encode]
  simp only [runLine, HostLine.wf, if_true, lineCycles, h]

/-- Everything `new(key)` can be, once its lines have run to the polled `STATUS` (R73). -/
theorem runNew_of_runLines {fuel : Nat} {key : List Byte} {s t : State} {status : Byte}
    (h : runLines fuel (newCall key) s = some ([status], t)) :
    runNew fuel key s =
      if statusErr status = 0 then some (.made, t)
      else if statusErr status = 1 then
        some (.invalidKeySize (engineTick t).errlen, { engineTick t with rdata := (engineTick t).errlen })
      else some (.otherCode (statusErr status), t) := by
  simp only [runNew, h, newOutcome, runLine_rd, readReg_addrOf]

/-- A list of cycles driven in two parts. -/
theorem drive_append {ps qs : List Ports} {s t u : State} {bytes rest : List Byte}
    (h : drive ps s = some (bytes, t)) (hq : drive qs t = some (rest, u)) :
    drive (ps ++ qs) s = some (bytes ++ rest, u) := by
  induction ps generalizing s bytes with
  | nil =>
    simp only [drive, Option.some.injEq, Prod.mk.injEq] at h
    obtain ⟨rfl, rfl⟩ := h
    exact hq
  | cons p ps ih =>
    cases hc : clockEdge p s with
    | next v =>
      cases hd : drive ps v with
      | none => simp [drive, hc, hd] at h
      | some x =>
        obtain ⟨bs, w⟩ := x
        simp only [drive, hc, hd, Option.some.injEq, Prod.mk.injEq] at h
        obtain ⟨rfl, rfl⟩ := h
        rw [List.cons_append, drive_cons hc (ih hd)]
        split <;> simp
    | fault => simp [drive, hc] at h
    | refused => simp [drive, hc] at h

end Sys2Proof.Machine
end

