-- ==== Sys2Proof/Tests/Slice0.lean ====
section
/-! SUPPORT. Tests: the checks of well-formedness, words of every row of the opcode table, the worked examples of the
spec (the section each comes from stands in its comment), one-step tests, and for every obligation with hypotheses a
state and operands that meet them. -/

namespace Sys2Proof.Tests

open Sys2Proof Sys2Proof.Machine

-- The known-answer vectors are checked one after another: waiting threads would reserve memory without need.
set_option Elab.async false

/-! ### Well-formedness (R72) -/

theorem test_ldkey_of_255_bytes_is_well_formed : HostLine.wf (.ldkey (List.replicate 255 0x5A)) = true := by
  decide +kernel
theorem test_ldkey_of_256_bytes_is_refused : HostLine.wf (.ldkey (List.replicate 256 0x5A)) = false := by
  decide +kernel
theorem test_ldkey_of_no_bytes_is_well_formed : HostLine.wf (.ldkey []) = true := by decide
theorem test_ldblk_of_8_bytes_is_well_formed : HostLine.wf (.ldblk [1, 2, 3, 4, 5, 6, 7, 8]) = true := by decide
theorem test_ldblk_of_7_bytes_is_refused : HostLine.wf (.ldblk [1, 2, 3, 4, 5, 6, 7]) = false := by decide
theorem test_ldblk_of_9_bytes_is_refused : HostLine.wf (.ldblk [1, 2, 3, 4, 5, 6, 7, 8, 9]) = false := by decide
theorem test_refused_line_has_no_run : runLine 1 (.ldblk [1, 2]) State.reset = none := by decide
theorem test_instructions_are_well_formed :
    (Instr.wr 0x3F 0xFF).wf = true ∧ (Instr.rd 0x25).wf = true ∧ Instr.nop.wf = true ∧ Instr.keyexp.wf = true ∧
    Instr.enc.wf = true ∧ Instr.dec.wf = true := by decide

/-! ### Decoding: words written out bit by bit from R60 to R62 -/

/-- `1` `010010` `10111110`: `WR DIN2, 0xBE`. -/
theorem test_decode_wr : decode (.bus 0b101001010111110) = .ok (.wr 0x12 0xBE) := by decide
/-- `0` `100011` `00000000`: `RD ERRLEN`. -/
theorem test_decode_rd : decode (.bus 0b010001100000000) = .ok (.rd 0x23) := by decide
/-- `RD` ignores its data byte (R60). -/
theorem test_decode_rd_ignores_wdata : decode (.bus 0b010001111111111) = .ok (.rd 0x23) := by decide
theorem test_decode_nop : decode (.cmd 0b00000000) = .ok .nop := by decide
theorem test_decode_keyexp : decode (.cmd 0b00000001) = .ok .keyexp := by decide
theorem test_decode_enc : decode (.cmd 0b00000010) = .ok .enc := by decide
theorem test_decode_dec : decode (.cmd 0b00000011) = .ok .dec := by decide
/-- An operation code 4 with `zero` = 0, and a legal operation code with a bit of `zero` set, are illegal (R63). -/
theorem test_decode_refuses_illegal_bytes :
    decode (.cmd 0b00000100) = .error (.illegalCommand 0x04) ∧
    decode (.cmd 0b00001001) = .error (.illegalCommand 0x09) ∧
    decode (.cmd 0b10000010) = .error (.illegalCommand 0x82) := by decide
theorem test_encode : encode (.wr 0x22 0x0A) = .bus 0x620A ∧ encode (.rd 0x21) = .bus 0x2100 ∧
    encode .dec = .cmd 0x03 := by decide
theorem test_bytes_that_are_no_code :
    codeOfBytes [0x0A, 0xE2] = .error (.notABusWord 0x0A 0xE2) ∧ codeOfBytes [] = .error (.wrongLength 0) ∧
    codeOfBytes [1, 2, 3] = .error (.wrongLength 3) := by decide
theorem test_decode_table_words :
    decodeTableWord 16 0x4999 = some (.wr 0x09 0x99) ∧ decodeTableWord 16 0x1F00 = some (.rd 0x1F) ∧
    decodeTableWord 8 0x00 = some .nop ∧ decodeTableWord 8 0x01 = some .keyexp ∧ decodeTableWord 8 0x02 = some .enc ∧
    decodeTableWord 8 0x03 = some .dec ∧ decodeTableWord 8 0x04 = none ∧ decodeTableWord 16 0x8000 = none := by decide
/-- No two rows of the table overlap: the match of each lies in its own row only. -/
theorem test_rows_do_not_overlap :
    ∀ i ∈ [Instr.wr 0 0, .rd 0, .nop, .keyexp, .enc, .dec], ∀ j ∈ [Instr.wr 0 0, .rd 0, .nop, .keyexp, .enc, .dec],
      rowMatches (opcodeRow j) (opcodeRow i).code = decide (i = j) := by decide

/-! ### Tables and primitives (spec/95_test_vectors.md section 2) -/

theorem test_tables :
    sbox 0x0 = 0xC ∧ sbox 0x1 = 0x0 ∧ sbox 0x8 = 0x8 ∧ sbox 0xF = 0x4 ∧ shufRom[0] = 5 ∧ shufRom[5] = 12 ∧
    shufRom[15] = 14 ∧ shufinvRom[5] = 0 ∧ shufinvRom[12] = 5 ∧ shufinvRom[14] = 15 ∧ rconRom[0] = 0x01 ∧
    rconRom[5] = 0x20 ∧ rconRom[6] = 0x03 ∧ rconRom[34] = 0x24 := by decide
theorem test_round_constant_split : rconHi rconRom[21] = 7 ∧ rconLo rconRom[21] = 3 ∧ rconHi rconRom[18] = 1 ∧
    rconLo rconRom[18] = 7 := by decide
theorem test_unpack : unpack (#v[0xF0, 0x0F, 0x10, 0x01, 0x08, 0x80, 0xA5, 0x5A] : Block) =
    #v[0xF, 0, 0, 0xF, 1, 0, 0, 1, 0, 8, 8, 0, 0xA, 5, 5, 0xA] := by decide
theorem test_pack : pack #v[0xF, 0, 0, 0xF, 1, 0, 0, 1, 0, 8, 8, 0, 0xA, 5, 5, 0xA] =
    #v[0xF0, 0x0F, 0x10, 0x01, 0x08, 0x80, 0xA5, 0x5A] := by decide
/-- Round 1 of V1 (section 2.4, second row). -/
theorem test_feistel_step :
    feistelStep #v[0, 1, 2, 3, 4, 5, 6, 7, 8, 9, 0xA, 0xB, 0xC, 0xD, 0xE, 0xF] #v[0, 1, 2, 3, 6, 7, 7, 8] =
      #v[0, 0xD, 2, 9, 4, 0xC, 6, 0xC, 8, 0xF, 0xA, 5, 0xC, 0xA, 0xE, 6] := by decide
/-- Section 2.5, fourth and eighth rows. -/
theorem test_permute :
    permute shufRom #v[0, 0xD, 2, 9, 4, 0xC, 6, 0xC, 8, 0xF, 0xA, 5, 0xC, 0xA, 0xE, 6] =
      #v[0xD, 2, 5, 6, 9, 0, 0xF, 4, 0xC, 0xA, 0xA, 0xE, 0xC, 8, 6, 0xC] ∧
    permute shufinvRom #v[1, 0, 0, 0, 0, 0, 0, 0, 0, 0, 0, 0, 0, 0, 0, 0] =
      #v[0, 1, 0, 0, 0, 0, 0, 0, 0, 0, 0, 0, 0, 0, 0, 0] := by decide

/-! ### Key schedules and transforms (spec/95_test_vectors.md sections 1 and 3) -/

/-- The key of V1. -/
def key80 : Vector Byte 10 := #v[0x00, 0x11, 0x22, 0x33, 0x44, 0x55, 0x66, 0x77, 0x88, 0x99]
/-- The key of V2. -/
def key128 : Vector Byte 16 :=
  #v[0x00, 0x11, 0x22, 0x33, 0x44, 0x55, 0x66, 0x77, 0x88, 0x99, 0xAA, 0xBB, 0xCC, 0xDD, 0xEE, 0xFF]
/-- The plaintext of V1 and V2. -/
def plain : Block := #v[0x01, 0x23, 0x45, 0x67, 0x89, 0xAB, 0xCD, 0xEF]
/-- The ciphertext of V1. -/
def cipher80 : Block := #v[0x7C, 0x1F, 0x0F, 0x80, 0xB1, 0xDF, 0x9C, 0x28]
/-- The ciphertext of V2. -/
def cipher128 : Block := #v[0x97, 0x9F, 0xF9, 0xB3, 0x79, 0xB5, 0xA9, 0xB8]

/-- Section 3.1: the working key after round 1. -/
theorem test_update80 : update80 (unpack key80) 0x01 =
    #v[0xA, 2, 3, 3, 4, 4, 5, 5, 6, 6, 7, 7, 8, 8, 9, 8, 0xC, 1, 1, 0] := by decide +kernel
/-- Section 3.3: the working key after round 1. -/
theorem test_update128 : update128 (unpack key128) 0x01 =
    #v[0xA, 2, 3, 3, 4, 4, 5, 5, 6, 6, 7, 7, 8, 8, 9, 8, 0xA, 0xA, 0xB, 0xF, 0xC, 0xC, 0xD, 0xD, 0xE, 0xE, 0xF, 0xF,
      0xC, 1, 1, 0] := by decide +kernel
/-- Section 3.2: three rows of `RK`. -/
theorem test_ks80 : (ks80 key80)[0] = #v[0, 1, 2, 3, 6, 7, 7, 8] ∧ (ks80 key80)[17] = #v[5, 0, 0xF, 6, 0xF, 2, 0xC, 2] ∧
    (ks80 key80)[35] = #v[3, 5, 3, 2, 0, 0, 6, 0xE] := by decide +kernel
/-- Section 3.4: three rows of `RK`. -/
theorem test_ks128 : (ks128 key128)[0] = #v[1, 1, 6, 7, 8, 9, 0xE, 0xF] ∧
    (ks128 key128)[17] = #v[0xE, 3, 7, 8, 0xF, 0, 0xF, 0xD] ∧
    (ks128 key128)[35] = #v[6, 5, 0xA, 0xE, 0xA, 0, 0, 7] := by decide +kernel
/-- V1. -/
theorem test_encrypt80 : encrypt (ks80 key80) plain = cipher80 := by decide +kernel
/-- V2. -/
theorem test_encrypt128 : encrypt (ks128 key128) plain = cipher128 := by decide +kernel
/-- Scenario S3. -/
theorem test_decrypt80 : decrypt (ks80 key80) cipher80 = plain := by decide +kernel
/-- Scenario S3. -/
theorem test_decrypt128 : decrypt (ks128 key128) cipher128 = plain := by decide +kernel

/-! ### One step each (spec/95_test_vectors.md section 6) -/

/-- The state after, or the reset state where there is none. -/
def after : Result → State
  | .next t => t
  | .fault _ => State.reset
  | .refused _ => State.reset

/-- An idle engine with V1's instance and V1's plaintext in `DIN`. -/
def keyed : State := { State.reset with rk := ks80 key80, keyvalid := true, din := plain }

/-- The engine of V1 with an ENC of the plaintext in flight and `n` cycles left. -/
def encrypting (n : Nat) : State := { keyed with op := .enc, cnt := n, x := unpack plain }

/-- An idle engine with V1's key in `KEY` and `KEYLEN` = 10. -/
def loaded : State :=
  { State.reset with key := #v[0x00, 0x11, 0x22, 0x33, 0x44, 0x55, 0x66, 0x77, 0x88, 0x99, 0, 0, 0, 0, 0, 0], keylen := 10 }

/-- The example of R140. -/
theorem test_wr_keylen : (after (step (State.reset.withFetchWord 16 0x620A))).keylen = 10 := by decide +kernel
/-- H16: a write to `DOUT0` is ignored. -/
theorem test_wr_read_only : after (exec (.wr 0x18 0xA5) { keyed with dout := cipher80 }) = { keyed with dout := cipher80 } := by
  decide +kernel
/-- H1: `RD BLKSIZE` after reset. -/
theorem test_rd_blksize : (after (step (State.reset.withFetchWord 16 0x2400))).rdata = 0x08 := by decide +kernel
/-- H10, cycle 27: the read in the completion cycle sees the result's `STATUS`. -/
theorem test_rd_status_at_completion :
    (after (step { encrypting 1 with inputs := [rdCycle 0x21] })).rdata = 0x0A := by decide +kernel
/-- The example of R142: `STATUS` 0x12, then NOP, then 0x02. -/
theorem test_nop : statusByte { keyed with err := 1 } = 0x12 ∧
    statusByte (after (exec .nop { keyed with err := 1 })) = 0x02 := by decide +kernel
/-- H12, cycle 25: a NOP while busy is a violation. -/
theorem test_nop_busy : statusByte (after (step ((encrypting 3).withFetchWord 8 0x00))) = 0x43 := by decide +kernel
/-- H3: a 9-byte key is refused. -/
theorem test_keyexp_refused :
    statusByte (after (step ({ State.reset with keylen := 9 }.withFetchWord 8 0x01))) = 0x10 ∧
    (after (exec .keyexp { State.reset with keylen := 9 })).errlen = 9 := by decide +kernel
/-- Section 3.1, the load of `WK`; H10, cycle 13: `STATUS` reads 0x01. -/
theorem test_keyexp_accepted :
    (after (exec .keyexp loaded)).wk = #v[0, 0, 1, 1, 2, 2, 3, 3, 4, 4, 5, 5, 6, 6, 7, 7, 8, 8, 9, 9, 0, 0, 0, 0, 0, 0, 0, 0,
      0, 0, 0, 0] ∧ statusByte (after (exec .keyexp loaded)) = 0x01 := by decide +kernel
/-- H2: ENC before any key. -/
theorem test_enc_without_key : statusByte (after (step (State.reset.withFetchWord 8 0x02))) = 0x20 := by decide +kernel
/-- H10, cycle 25: `STATUS` 0x03 after an accepted ENC, the block unpacked. -/
theorem test_enc_accepted : statusByte (after (exec .enc keyed)) = 0x03 ∧
    (after (exec .enc keyed)).x = #v[0, 1, 2, 3, 4, 5, 6, 7, 8, 9, 0xA, 0xB, 0xC, 0xD, 0xE, 0xF] := by decide +kernel
/-- H2: DEC before any key. -/
theorem test_dec_without_key : statusByte (after (exec .dec State.reset)) = 0x20 := by decide +kernel
/-- H18, cycle 25: the DEC written in the completion cycle of the ENC is accepted, with `DVALID` set by the ENC. -/
theorem test_dec_at_completion :
    statusByte (after (step ((encrypting 1).withFetchWord 8 0x03))) = 0x0B ∧
    (after (step ((encrypting 1).withFetchWord 8 0x03))).op = .dec := by decide +kernel
/-- H8: illegal command bytes. -/
theorem test_illegal_command_bytes :
    ∀ b ∈ [0x04, 0x07, 0x08, 0x80, 0xFF], statusByte (after (exec (.wr 0x20 b) State.reset)) = 0x30 := by decide +kernel
/-- H14, cycle 36, with V1's key sampled: the completing tick of a KEYEXP. -/
theorem test_tick_completes_keyexp :
    let t := engineTick { loaded with op := .keyexp80, cnt := 1, wk := loadWk80 loaded.key, keysize := true, dvalid := true }
    statusByte t = 0x0A ∧ t.rk[35] = #v[3, 5, 3, 2, 0, 0, 6, 0xE] ∧ t.wk = Vector.replicate 32 0 := by decide +kernel
/-- H17, cycles 62 and 63: reset while busy. -/
theorem test_reset_while_busy : statusByte (after (step { encrypting 3 with inputs := [resetPorts] })) = 0x00 := by
  decide +kernel
/-- R72: `LDKEY` of 17 bytes writes the first 16 and gives `KEYLEN` 17. -/
theorem test_ldkey_of_17_bytes : (lineCycles (.ldkey (List.replicate 17 0x11))).length = 17 ∧
    (lineCycles (.ldkey (List.replicate 17 0x11))).getLast? = some (wrCycle 0x22 0x11) := by decide +kernel

/-- Scenario S4: `new` of a 0-byte key fails with invalid-key-size(0). -/
theorem test_new_of_no_bytes :
    (runNew 1 [] { State.reset with keylen := 9, errlen := 9 }).map Prod.fst = some (.invalidKeySize 0x00) := by
  decide +kernel
/-- `new` while an ENC runs: the KEYEXP is dropped with code 4 (R154), which R73 calls neither success nor failure. -/
theorem test_new_while_busy : (runNew 5 [] (encrypting 5)).map Prod.fst = some (.otherCode 4) := by decide +kernel

/-! ### Hypotheses are met -/

theorem one_le_latency {o : Op} (h : o ≠ .idle) : 1 ≤ latencyOf o := by
  cases o with
  | idle => exact absurd rfl h
  | keyexp80 => exact Config.latKeyexp80.pos
  | keyexp128 => exact Config.latKeyexp128.pos
  | enc => exact Config.latEnc.pos
  | dec => exact Config.latDec.pos

/-- Idle cycles: no reset and no command among them. -/
theorem idles_are_quiet (n : Nat) :
    noReset (List.replicate n idlePorts) ∧ ∀ p ∈ List.replicate n idlePorts, isCmdWrite p = false := by
  constructor <;> intro p h <;> rw [List.eq_of_mem_replicate h] <;> rfl

/-- An engine with an ENC in flight, as the invariant describes it. -/
theorem encrypting_inv : EngineInv (encrypting 1) where
  err_le := by decide
  cnt_of_op := fun _ => ⟨by decide, one_le_latency (o := .enc) (by decide)⟩
  cnt_idle := fun h => by cases h
  wk_zero := fun _ => rfl
  wk_loaded80 := fun h => by cases h
  wk_loaded128 := fun h => by cases h
  no_key_in_keyexp := fun h => by cases h
  key_in_transform := fun _ => rfl
  instance_of_key := fun _ => ⟨key80, rfl⟩
  x_leftover := fun h => by cases h
  dout_zero := fun _ => rfl

theorem witness_DecodeOfEncodeIsTheInstruction : (Instr.wr 0x3F 0xFF).wf = true := by decide
theorem witness_EncodeOfDecodeIsTheCode :
    decode (.bus 0x4999) = .ok (.wr 0x09 0x99) ∧ decode (.bus 0x1FFF) = .ok (.rd 0x1F) ∧
    decode (.cmd 0x03) = .ok .dec := by decide
theorem witness_ReservedAndIllegalEncodings :
    0x04 ≤ (0x04 : Byte).toNat ∧ 0x04 ≤ (0xFF : Byte).toNat ∧ (0x00 : Byte).toNat < 0x04 ∧ (0x03 : Byte).toNat < 0x04 ∧
    State.reset.op = .idle ∧ 0x25 ≤ (0x25 : Addr).toNat ∧ 0x25 ≤ (0x3F : Addr).toNat ∧
    (0x18 ≤ (0x18 : Addr).toNat ∧ (0x18 : Addr).toNat ≤ 0x1F) ∧ (0x18 ≤ (0x1F : Addr).toNat ∧ (0x1F : Addr).toNat ≤ 0x1F) := by
  decide
theorem witness_StepRunsTheDecodedInstruction :
    ({ State.reset with inputs := [rdCycle 0x3F] } : State).inputs = rdCycle 0x3F :: [] ∧ (rdCycle 0x3F).rst = false ∧
    (rdCycle 0x3F).sel = true ∧ decode (.bus (portsWord (rdCycle 0x3F))) = .ok (.rd 0x3F) ∧
    decodeTableWord 16 0x7FFF = some (.wr 0x3F 0xFF) ∧ decodeTableWord 8 0x03 = some .dec := by decide
theorem witness_CommandByteOnTheBusRunsTheCommand :
    decode (.cmd 0x00) = .ok .nop ∧ decode (.cmd 0x03) = .ok .dec := by decide
theorem witness_IdleCycleIsTheTickAlone :
    ({ State.reset with inputs := [idlePorts] } : State).inputs = idlePorts :: [] ∧ idlePorts.rst = false ∧
    idlePorts.sel = false ∧ State.reset.inputs = [] := by decide
theorem witness_ResetCycleGivesTheResetValues :
    ({ encrypting 3 with inputs := [resetPorts] } : State).inputs = resetPorts :: [] ∧ resetPorts.rst = true := by
  decide +kernel
theorem witness_ResetAbandonsTheCommand :
    resetPorts.rst = true ∧ noReset [idlePorts, rdCycle 0x21, wrCycle 0x00 0x55] ∧
    ∀ q ∈ [idlePorts, rdCycle 0x21, wrCycle 0x00 0x55], isCmdWrite q = false := by
  refine ⟨rfl, ?_, by decide⟩
  unfold noReset
  decide
theorem witness_WrByAddress :
    BitVec.ofNat 6 (15 : Fin 16).val = (0x0F : Addr) ∧ BitVec.ofNat 6 (0x10 + (7 : Fin 8).val) = (0x17 : Addr) ∧
    (0x18 ≤ (0x18 : Addr).toNat ∧ (0x18 : Addr) ≠ 0x20 ∧ (0x18 : Addr) ≠ 0x22) ∧
    (0x18 ≤ (0x3F : Addr).toNat ∧ (0x3F : Addr) ≠ 0x20 ∧ (0x3F : Addr) ≠ 0x22) := by decide
theorem witness_WrittenByteReadsBack :
    ((0x00 : Addr).toNat < 0x18 ∨ (0x00 : Addr) = 0x22) ∧ ((0x17 : Addr).toNat < 0x18 ∨ (0x17 : Addr) = 0x22) ∧
    ((0x22 : Addr).toNat < 0x18 ∨ (0x22 : Addr) = 0x22) ∧ (0x23 : Addr) ≠ 0x22 := by decide
theorem witness_WrFrame :
    exec (.wr 0x0F 0xFF) State.reset = .next (after (exec (.wr 0x0F 0xFF) State.reset)) ∧
    exec (.wr 0x10 0xFF) State.reset = .next (after (exec (.wr 0x10 0xFF) State.reset)) ∧
    exec (.wr 0x22 0x0A) State.reset = .next (after (exec (.wr 0x22 0x0A) State.reset)) ∧
    exec (.wr 0x20 0x02) State.reset = .next (after (exec (.wr 0x20 0x02) State.reset)) ∧
    (0x10 ≤ (0x10 : Addr).toNat) ∧ ((0x0F : Addr).toNat < 0x10) ∧ (0x18 ≤ (0x20 : Addr).toNat) ∧
    (0x22 : Addr) ≠ 0x20 ∧ ¬ ((0x20 : Addr) = 0x20 ∧ ((0x3F : Addr) = 0x21 ∨ (0x3F : Addr) = 0x23)) := by
  refine ⟨rfl, rfl, rfl, rfl, ?_⟩
  decide
theorem witness_RdByAddress : 0x25 ≤ (0x25 : Addr).toNat ∧ 0x25 ≤ (0x3F : Addr).toNat := by decide
theorem witness_AccessesOutsideCmdAreIdempotent : (0x1F : Addr) ≠ 0x20 ∧ (0x21 : Addr) ≠ 0x20 := by decide
theorem witness_CommandChecksInOrder :
    (encrypting 3).op ≠ .idle ∧ State.reset.op = .idle ∧ 0x03 < (0x04 : Byte).toNat ∧ 0x03 < (0xFF : Byte).toNat := by
  decide +kernel
theorem witness_OutcomeCodeOfACommandWrite : (0x1F : Addr) ≠ 0x20 ∧ (0x22 : Addr) ≠ 0x20 := by decide
theorem witness_NopClearsErr : State.reset.op = .idle ∧ (encrypting 3).op ≠ .idle := by decide +kernel
theorem witness_KeyexpIsAccepted :
    loaded.op = .idle ∧ loaded.keylen = 10 ∧ ({ loaded with keylen := 16 } : State).op = .idle ∧
    ({ loaded with keylen := 16 } : State).keylen = 16 := by decide
theorem witness_KeyexpValidatesTheLengthOnly :
    State.reset.op = .idle ∧ (State.reset.keylen ≠ 10 ∧ State.reset.keylen ≠ 16) ∧
    (({ State.reset with keylen := 11 } : State).keylen ≠ 10 ∧ ({ State.reset with keylen := 11 } : State).keylen ≠ 16) ∧
    (({ State.reset with keylen := 255 } : State).keylen ≠ 10 ∧
      ({ State.reset with keylen := 255 } : State).keylen ≠ 16) ∧ (loaded.op = .idle ∧ loaded.keylen = 10) := by decide
theorem witness_EncAndDecAreAccepted : keyed.op = .idle ∧ keyed.keyvalid = true := by decide +kernel
theorem witness_EncAndDecWithoutKeyAreRefused : State.reset.op = .idle ∧ State.reset.keyvalid = false := by decide
theorem witness_BusyEngineDropsCommands : (encrypting 1).op ≠ .idle := by decide +kernel
theorem witness_CommandFrame :
    exec .nop State.reset = .next (after (exec .nop State.reset)) ∧
    exec .keyexp loaded = .next (after (exec .keyexp loaded)) ∧ exec .enc keyed = .next (after (exec .enc keyed)) ∧
    exec .dec State.reset = .next (after (exec .dec State.reset)) ∧ (after (exec .dec State.reset)).err ≠ 0 :=
  ⟨rfl, rfl, rfl, rfl, by decide⟩
theorem witness_TickCountsDown : keyed.op = .idle ∧ (encrypting 2).op ≠ .idle ∧ 1 < (encrypting 2).cnt := by decide +kernel
/-- A KEYEXP in flight with one cycle left. -/
def expanding (o : Op) (w : WorkKey) : State := { State.reset with op := o, cnt := 1, wk := w }
theorem witness_TickCompletesKeyexp :
    ((expanding .keyexp80 (loadWk80 key128)).cnt = 1 ∧ (expanding .keyexp80 (loadWk80 key128)).op = .keyexp80 ∧
      (expanding .keyexp80 (loadWk80 key128)).wk = loadWk80 key128) ∧
    ((expanding .keyexp128 (loadWk128 key128)).cnt = 1 ∧ (expanding .keyexp128 (loadWk128 key128)).op = .keyexp128 ∧
      (expanding .keyexp128 (loadWk128 key128)).wk = loadWk128 key128) := ⟨⟨rfl, rfl, rfl⟩, rfl, rfl, rfl⟩
theorem witness_TickCompletesTransform :
    ((encrypting 1).cnt = 1 ∧ (encrypting 1).x = unpack plain ∧ (encrypting 1).op = .enc) ∧
    (({ encrypting 1 with op := .dec } : State).cnt = 1 ∧ ({ encrypting 1 with op := .dec } : State).x = unpack plain ∧
      ({ encrypting 1 with op := .dec } : State).op = .dec) := ⟨⟨rfl, rfl, rfl⟩, rfl, rfl, rfl⟩
/-- Each command in flight with one cycle left, and each command written, under its accept condition. An ENC in the
completion cycle of a KEYEXP needs no instance before it. -/
theorem witness_CommandInTheCompletionCycleIsAccepted :
    let k80 : State := expanding .keyexp80 (loadWk80 key128)
    let k128 : State := expanding .keyexp128 (loadWk128 key128)
    let e : State := encrypting 1
    let d : State := { encrypting 1 with op := .dec }
    let w (s : State) (i : Instr) : State := { s with keylen := 10, inputs := instrPorts i :: [] }
    (k80.op ≠ .idle ∧ k80.cnt = 1 ∧ k80.wk = loadWk80 key128) ∧
    (k128.op ≠ .idle ∧ k128.cnt = 1 ∧ k128.wk = loadWk128 key128) ∧
    (e.op ≠ .idle ∧ e.cnt = 1 ∧ e.x = unpack plain) ∧ (d.op ≠ .idle ∧ d.cnt = 1 ∧ d.x = unpack plain) ∧
    (w e .nop).inputs = instrPorts .nop :: [] ∧
    ((w d .keyexp).inputs = instrPorts .keyexp :: [] ∧ (w d .keyexp).keylen = 10) ∧
    (({ w d .keyexp with keylen := 16 } : State).inputs = instrPorts .keyexp :: [] ∧
      ({ w d .keyexp with keylen := 16 } : State).keylen = 16) ∧
    ((w k80 .enc).inputs = instrPorts .enc :: [] ∧ (w k80 .enc).op.isKeyexp = true ∧ (w k80 .enc).keyvalid = false) ∧
    ((w e .dec).inputs = instrPorts .dec :: [] ∧ (w e .dec).keyvalid = true) :=
  ⟨⟨by decide, rfl, rfl⟩, ⟨by decide, rfl, rfl⟩, ⟨by decide, rfl, rfl⟩, ⟨by decide, rfl, rfl⟩, rfl, ⟨rfl, rfl⟩,
    ⟨rfl, rfl⟩, ⟨rfl, rfl, rfl⟩, rfl, rfl⟩
theorem witness_EngineNeverWritesHostBuffers :
    let s (p : Ports) : State := { State.reset with inputs := p :: [] }
    (step (s (rdCycle 0x21)) = .next (after (step (s (rdCycle 0x21)))) ∧ (rdCycle 0x21).rst = false ∧
      (rdCycle 0x21).we = false) ∧
    (step (s (wrCycle 0x17 0xFF)) = .next (after (step (s (wrCycle 0x17 0xFF)))) ∧ (wrCycle 0x17 0xFF).sel = true ∧
      (wrCycle 0x17 0xFF).we = true ∧ (wrCycle 0x17 0xFF).addr ≠ 0x22) ∧
    (step (s (wrCycle 0x22 0x0A)) = .next (after (step (s (wrCycle 0x22 0x0A)))) ∧
      0x18 ≤ (wrCycle 0x22 0x0A).addr.toNat) ∧ ((0x17 : Addr) ≠ 0x22 ∧ (0x17 : Addr).toNat < 0x18) := by
  refine ⟨⟨rfl, rfl, rfl⟩, ⟨rfl, rfl, rfl, by decide⟩, ⟨rfl, by decide⟩, by decide⟩
theorem witness_ResultsChangeOnlyAtCompletionOrReset :
    let s := expanding .keyexp80 (loadWk80 key128)
    let u : State := { keyed with dout := cipher80, inputs := [resetPorts] }
    (step s = .next (after (step s)) ∧ (after (step s)).rk[0] ≠ s.rk[0]) ∧
    (step (encrypting 1) = .next (after (step (encrypting 1))) ∧ (after (step (encrypting 1))).dout ≠ (encrypting 1).dout) ∧
    (step u = .next (after (step u)) ∧ (after (step u)).dout ≠ u.dout) := by
  refine ⟨⟨rfl, by decide +kernel⟩, ⟨rfl, by decide +kernel⟩, ⟨rfl, by decide +kernel⟩⟩
theorem witness_QuiescentEngineKeepsItsState :
    quiescent keyed = true ∧ noReset [idlePorts, wrCycle 0x10 0xFF, wrCycle 0x3F 0xA5] ∧
    ∀ p ∈ [idlePorts, wrCycle 0x10 0xFF, wrCycle 0x3F 0xA5], isCmdWrite p = false := by
  refine ⟨by decide +kernel, ?_, by decide⟩
  unfold noReset
  decide
theorem witness_EveryStepKeepsTheInvariant :
    EngineInv (encrypting 1) ∧ step (encrypting 1) = .next (after (step (encrypting 1))) := ⟨encrypting_inv, rfl⟩
theorem witness_Keyexp80RunFillsTheRoundKeys :
    loaded.op = .idle ∧ loaded.keylen = 10 ∧ noReset [] ∧ ([] : List Ports).length < latencyOf .keyexp80 ∧
    noReset (List.replicate (latencyOf .keyexp80) idlePorts) ∧
    (List.replicate (latencyOf .keyexp80) idlePorts).length = latencyOf .keyexp80 ∧
    ∀ p ∈ (List.replicate (latencyOf .keyexp80) idlePorts).getLast?, isCmdWrite p = false :=
  ⟨rfl, rfl, nofun, one_le_latency (by decide), (idles_are_quiet _).1, List.length_replicate,
    fun p h => (idles_are_quiet _).2 p (List.mem_of_getLast? h)⟩
theorem witness_Keyexp128RunFillsTheRoundKeys :
    ({ loaded with keylen := 16 } : State).op = .idle ∧ ({ loaded with keylen := 16 } : State).keylen = 16 ∧ noReset [] ∧
    ([] : List Ports).length < latencyOf .keyexp128 ∧ noReset (List.replicate (latencyOf .keyexp128) idlePorts) ∧
    (List.replicate (latencyOf .keyexp128) idlePorts).length = latencyOf .keyexp128 ∧
    ∀ p ∈ (List.replicate (latencyOf .keyexp128) idlePorts).getLast?, isCmdWrite p = false :=
  ⟨rfl, rfl, nofun, one_le_latency (by decide), (idles_are_quiet _).1, List.length_replicate,
    fun p h => (idles_are_quiet _).2 p (List.mem_of_getLast? h)⟩
theorem witness_EncRunWritesTheCiphertext :
    keyed.op = .idle ∧ keyed.keyvalid = true ∧ noReset [] ∧ ([] : List Ports).length < latencyOf .enc ∧
    noReset (List.replicate (latencyOf .enc) idlePorts) ∧
    (List.replicate (latencyOf .enc) idlePorts).length = latencyOf .enc ∧
    ∀ p ∈ (List.replicate (latencyOf .enc) idlePorts).getLast?, isCmdWrite p = false :=
  ⟨rfl, rfl, nofun, one_le_latency (by decide), (idles_are_quiet _).1, List.length_replicate,
    fun p h => (idles_are_quiet _).2 p (List.mem_of_getLast? h)⟩
theorem witness_DecRunWritesThePlaintext :
    keyed.op = .idle ∧ keyed.keyvalid = true ∧ noReset [] ∧ ([] : List Ports).length < latencyOf .dec ∧
    noReset (List.replicate (latencyOf .dec) idlePorts) ∧
    (List.replicate (latencyOf .dec) idlePorts).length = latencyOf .dec ∧
    ∀ p ∈ (List.replicate (latencyOf .dec) idlePorts).getLast?, isCmdWrite p = false :=
  ⟨rfl, rfl, nofun, one_le_latency (by decide), (idles_are_quiet _).1, List.length_replicate,
    fun p h => (idles_are_quiet _).2 p (List.mem_of_getLast? h)⟩
/-- Two engines that differ in the key buffer, the output buffer and the leftover of `X`. -/
theorem witness_TransformDependsOnRoundKeysAndBlockOnly :
    let u : State := { keyed with key := key128, dout := cipher80, x := unpack cipher80 }
    keyed.op = .idle ∧ u.op = .idle ∧ keyed.keyvalid = true ∧ u.keyvalid = true ∧ keyed.rk = u.rk ∧ keyed.din = u.din ∧
    (noReset (List.replicate (latencyOf .enc) idlePorts) ∧
      (List.replicate (latencyOf .enc) idlePorts).length = latencyOf .enc) ∧
    (noReset (List.replicate (latencyOf .dec) idlePorts) ∧
      (List.replicate (latencyOf .dec) idlePorts).length = latencyOf .dec) :=
  ⟨rfl, rfl, rfl, rfl, rfl, rfl, ⟨(idles_are_quiet _).1, List.length_replicate⟩,
    ⟨(idles_are_quiet _).1, List.length_replicate⟩⟩
theorem witness_EngineIsQuiescentWithinTheLatency :
    EngineInv (encrypting 1) ∧ noReset (List.replicate (latencyOf .enc) idlePorts) ∧
    (∀ p ∈ List.replicate (latencyOf .enc) idlePorts, isCmdWrite p = false) ∧
    latencyOf (encrypting 1).op ≤ (List.replicate (latencyOf .enc) idlePorts).length :=
  ⟨encrypting_inv, (idles_are_quiet _).1, (idles_are_quiet _).2, by rw [List.length_replicate]; exact le_refl _⟩
theorem witness_PollTerminates : 1 ≤ 5 ∧ (encrypting 5).cnt ≤ 5 ∧ State.reset.cnt ≤ 1 := by decide +kernel
/-- The round keys of V1 against zeros in an engine without an instance. -/
theorem witness_HiddenStateIsNeverObserved :
    SameVisible State.reset { State.reset with rk := ks80 key80, cnt := 7, x := unpack plain } where
  key := rfl
  keylen := rfl
  din := rfl
  dout := rfl
  keyvalid := rfl
  keysize := rfl
  dvalid := rfl
  err := rfl
  errlen := rfl
  op := rfl
  cnt := fun h => absurd rfl h
  rk := fun h => by rcases h with h | h <;> cases h
  wk := fun h => by cases h
  x := fun h => by cases h
theorem witness_FeistelStepByLanes : 0 < 8 ∧ 7 < 8 ∧ (14 : Nat) < 16 ∧ (14 : Nat) ≠ 2 * (7 : Fin 8) + 1 ∧
    ([7, 6, 5, 4, 3, 2, 1, 0] : List (Fin 8)).Perm (List.finRange 8) := by decide
theorem witness_TablesArePermutations : sbox 0x8 = sbox 0x8 := rfl
theorem witness_UnpackByBytes : 0 < 10 ∧ 9 < 10 := by decide
theorem witness_PackAndUnpackAreInverse : 0 < 8 ∧ 7 < 8 := by decide
theorem witness_RoundConstantInjection : 20 ≤ 20 ∧ 20 ≤ 32 ∧ (31 < 32 ∧ 31 ≠ 7 ∧ 31 ≠ 19) := by decide
theorem witness_RotationLoopIsTheRotation : 20 ≤ 20 ∧ 0 + 4 < 20 ∧ 15 + 4 < 20 ∧ 20 ≤ 32 ∧ 27 + 4 < 32 := by decide
theorem witness_KeySchedule80ByRounds : (0 < 35 ∧ 34 < 35) ∧ (14 < 16 ∧ 14 ≠ 0 ∧ 14 ≠ 3 ∧ 14 ≠ 15) ∧ 35 < 36 := by decide
theorem witness_KeySchedule128ByRounds :
    (0 < 35 ∧ 34 < 35) ∧ (27 < 28 ∧ 27 ≠ 0 ∧ 27 ≠ 3 ∧ 27 ≠ 15 ∧ 27 ≠ 19) ∧ 35 < 36 := by decide
theorem witness_TransformsByRounds : 0 < 35 ∧ 34 < 35 := by decide
theorem witness_PendingCyclesRunAsDriven :
    drive [rdCycle 0x24] State.reset = some ([0x08], { State.reset with rdata := 0x08 }) := by decide +kernel
theorem witness_NewCallMakesTheInstance :
    State.reset.op = .idle ∧ latencyOf .keyexp80 ≤ latencyOf .keyexp80 ∧ latencyOf .keyexp128 ≤ latencyOf .keyexp128 :=
  ⟨rfl, le_refl _, le_refl _⟩
theorem witness_NewCallWithBadLengthFails :
    keyed.op = .idle ∧ 1 ≤ 1 ∧ ([] : List Byte).length ≤ 255 ∧ ([] : List Byte).length ≠ 10 ∧ ([] : List Byte).length ≠ 16 ∧
    (List.replicate 255 (0x5A : Byte)).length ≤ 255 ∧ (List.replicate 255 (0x5A : Byte)).length ≠ 10 ∧
    (List.replicate 255 (0x5A : Byte)).length ≠ 16 := by decide +kernel
theorem witness_EncryptThenDecryptCallsReturnTheBlock :
    keyed.op = .idle ∧ keyed.keyvalid = true ∧ latencyOf .enc ≤ max (latencyOf .enc) (latencyOf .dec) ∧
    latencyOf .dec ≤ max (latencyOf .enc) (latencyOf .dec) := ⟨rfl, rfl, le_max_left _ _, le_max_right _ _⟩

end Sys2Proof.Tests
end

/-! ### Fixed registers
Reads at fixed addresses, and the bits of `STATUS` (spec/10_state.md R18, R19, R23). -/

namespace Sys2Proof.Machine

theorem readReg_status (s : State) : readReg s 0x21 = statusByte s := readReg_addrOf s .status

theorem readReg_cmd (s : State) : readReg s 0x20 = 0x00 := readReg_addrOf s .cmd

theorem readReg_blksize (s : State) : readReg s 0x24 = 0x08 := readReg_addrOf s .blksize

/-- The bits of `STATUS` that are stored flags, and the constant bit 7 (R19). -/
@[simp] theorem statusByte_bit1 (s : State) : (statusByte s).getLsbD 1 = s.keyvalid := by
  simp only [statusByte, BitVec.getLsbD_append]
  simp

@[simp] theorem statusByte_bit2 (s : State) : (statusByte s).getLsbD 2 = s.keysize := by
  simp only [statusByte, BitVec.getLsbD_append]
  simp

@[simp] theorem statusByte_bit3 (s : State) : (statusByte s).getLsbD 3 = s.dvalid := by
  simp only [statusByte, BitVec.getLsbD_append]
  simp

@[simp] theorem statusByte_bit7 (s : State) : (statusByte s).getLsbD 7 = false := by
  simp only [statusByte, BitVec.getLsbD_append]
  simp

/-- Settles O16: bit 0 is `busy`, and the other fields are read off the assembled byte one by one. -/
theorem statusBits : Obligations.StatusBits := by
  intro s
  rw [readReg_status]
  refine ⟨?_, statusByte_bit1 s, statusByte_bit2 s, statusByte_bit3 s, statusErr_statusByte s, statusByte_bit7 s⟩
  rw [statusByte_bit0, busy_eq_true]

/-- Settles O11: the stored fields as State.reset gives them, and the three registers that are not stored. -/
theorem resetStateHasTheResetValues : Obligations.ResetStateHasTheResetValues := by
  have hstatus : statusByte State.reset = 0x00 := by decide
  exact ⟨rfl, rfl, rfl, rfl, rfl, rfl, rfl, rfl, rfl,
    (readReg_status _).trans hstatus, readReg_cmd _, readReg_blksize _⟩

end Sys2Proof.Machine

/-! ### Everything an edge can do
Inversion of the command and of the clock edge: the states either can answer (spec/20_memory.md R45,
spec/43_host_access.md R143). -/

namespace Sys2Proof.Machine

/-- The states a command can answer: an error taken, `ERR` cleared, or, on an idle engine, KEYEXP or a transform
accepted, a transform only with `KEYVALID = 1` (R102, R120, R121, R142, R150). -/
theorem command_eq_next_cases {s t : State} {v : Byte} (h : command s v = .next t) :
    (∃ e, t = raise s e) ∨ t = clearErr s ∨
    (s.op = .idle ∧ (t = acceptKeyexp s (loadWk80 s.key) .keyexp80 (latencyOf .keyexp80) ∨
      t = acceptKeyexp s (loadWk128 s.key) .keyexp128 (latencyOf .keyexp128))) ∨
    (s.op = .idle ∧ s.keyvalid = true ∧
      ∃ o, o.isTransform = true ∧ t = acceptTransform s (loadX s.din) o (latencyOf o)) := by
  rcases command_cases s v with ⟨-, hc⟩ | ⟨-, -, hc⟩ | ⟨-, -, hc⟩ | ⟨-, -, -, -, hc⟩ | ⟨hop, -, -, hc⟩ |
    ⟨hop, -, -, hc⟩ | ⟨-, -, -, hc⟩ | ⟨hop, -, hk, hc⟩ | ⟨hop, -, hk, hc⟩ <;> cases hc.symm.trans h
  · exact .inl ⟨_, rfl⟩
  · exact .inl ⟨_, rfl⟩
  · exact .inr (.inl rfl)
  · exact .inl ⟨_, rfl⟩
  · exact .inr (.inr (.inl ⟨hop, .inl rfl⟩))
  · exact .inr (.inr (.inl ⟨hop, .inr rfl⟩))
  · exact .inl ⟨_, rfl⟩
  · exact .inr (.inr (.inr ⟨hop, hk, .enc, rfl, rfl⟩))
  · exact .inr (.inr (.inr ⟨hop, hk, .dec, rfl, rfl⟩))

/-- The states a clock edge can answer: the reset state, or what the tick leaves after no access or a read, a register
write, or a command (R45, R170). -/
theorem clockEdge_eq_next_cases {p : Ports} {s t : State} (h : clockEdge p s = .next t) :
    (p.rst = true ∧ t = resetEdge s) ∨
    (p.rst = false ∧
      ((∃ v, t = { engineTick s with rdata := v }) ∨
        t = writeReg { engineTick s with rdata := 0 } p.addr p.wdata ∨
        command { engineTick s with rdata := 0 } p.wdata = .next t)) := by
  cases hrst : p.rst with
  | true => exact .inl ⟨rfl, by cases (clockEdge_reset s hrst).symm.trans h; rfl⟩
  | false =>
    refine .inr ⟨rfl, ?_⟩
    cases hsel : p.sel with
    | false => exact .inl ⟨0, by cases (clockEdge_idle s hrst hsel).symm.trans h; rfl⟩
    | true =>
      cases hwe : p.we with
      | false => exact .inl ⟨_, by cases (clockEdge_rd s hrst hsel hwe).symm.trans h; rfl⟩
      | true =>
        rw [clockEdge_wr s hrst hsel hwe, execWr_eq] at h
        split at h
        · exact .inr (.inr h)
        · cases h; exact .inr (.inl rfl)

end Sys2Proof.Machine

/-! ### The engine invariant
The engine invariant, one lemma a shared operation, then the edge and the step. -/

namespace Sys2Proof.Machine

/-- Every command takes at least one cycle (R7). -/
theorem latencyOf_pos {o : Op} (h : o ≠ .idle) : 0 < latencyOf o := by
  cases o with
  | idle => exact absurd rfl h
  | keyexp80 => exact Config.latKeyexp80.pos
  | keyexp128 => exact Config.latKeyexp128.pos
  | enc => exact Config.latEnc.pos
  | dec => exact Config.latDec.pos

/-- An expansion is no transform, and is a command (R23). -/
theorem Op.isTransform_of_isKeyexp {o : Op} (h : o.isKeyexp = true) : o.isTransform = false ∧ o ≠ .idle := by
  cases o <;> simp_all [Op.isKeyexp, Op.isTransform]

/-- A transform is no expansion, and is a command (R23). -/
theorem Op.isKeyexp_of_isTransform {o : Op} (h : o.isTransform = true) : o.isKeyexp = false ∧ o ≠ .idle := by
  cases o <;> simp_all [Op.isKeyexp, Op.isTransform]

/-- The codes of R150 are at most 4. -/
theorem errCode_le (e : CmdError) : (errCode e).toNat ≤ 4 := by
  cases e <;> simp [errCode]

theorem codeOk_le : codeOk.toNat ≤ 4 := by decide

/-- The nibbles of two put together (R84, R85). -/
@[simp] theorem hiNibble_append (a b : Nibble) : hiNibble (a ++ b) = a :=
  BitVec.extractLsb'_append_eq_left

@[simp] theorem loNibble_append (a b : Nibble) : loNibble (a ++ b) = b :=
  BitVec.extractLsb'_append_eq_right

/-- `Unpack` undoes `Pack` (R85). -/
theorem unpack_pack (x : Nibbles16) : unpack (pack x) = x := by
  ext i hi
  rw [getElem_unpack]
  split
  · have : 2 * (i / 2) = i := by omega
    simp [getElem_pack, this]
  · have : 2 * (i / 2) + 1 = i := by omega
    simp [getElem_pack, this]

theorem unpack_zero : unpack (Vector.replicate 8 0) = Vector.replicate 16 0 := by decide

/-- The 80-bit schedule reads back the 20 nibbles an 80-bit KEYEXP loaded (R100, R103). -/
theorem wkLow_loadWk80 (key : Vector Byte 16) : wkLow (loadWk80 key) = unpack (keyBytes80 key) := by
  ext i hi
  simp [wkLow, loadWk80]

/-- The invariant holds with the values of R29, whatever `RK` holds. -/
theorem engineInv_resetValues (rk : RoundKeys) (n : Nat) (ps : List Ports) :
    EngineInv { State.reset with rk := rk, freeCtr := n, inputs := ps } where
  err_le := codeOk_le
  cnt_of_op h := absurd rfl h
  cnt_idle _ := rfl
  wk_zero _ := rfl
  wk_loaded80 h := by cases h
  wk_loaded128 h := by cases h
  no_key_in_keyexp h := by cases h
  key_in_transform h := by cases h
  instance_of_key h := by cases h
  x_leftover _ := unpack_zero.symm
  dout_zero _ := rfl

namespace EngineInv

variable {s t : State}

/-- The invariant says nothing of the ports and of the host's coming cycles. -/
theorem setPorts (h : EngineInv s) (v : Byte) (ps : List Ports) : EngineInv { s with rdata := v, inputs := ps } :=
  { h with }

/-- A register write touches host buffers only (R140). -/
theorem writeReg (h : EngineInv s) (a : Addr) (v : Byte) : EngineInv (writeReg s a v) := by
  rcases writeReg_cases s a v with ⟨k, hw⟩ | ⟨k, hw⟩ | hw | hw <;> rw [hw] <;> exact { h with }

/-- Taking an error writes a code of R150 (R156). -/
theorem raise (h : EngineInv s) (e : CmdError) : EngineInv (raise s e) := by
  have herr := errCode_le e
  cases e <;> exact { h with err_le := herr }

theorem clearErr (h : EngineInv s) : EngineInv (clearErr s) :=
  { h with err_le := codeOk_le }

/-- Accepting KEYEXP on an idle engine, with `WK` loaded as the size asks (R100, R102). -/
theorem acceptKeyexp (h : EngineInv s) (hidle : s.op = .idle) {w : WorkKey} {o : Op} (ho : o.isKeyexp = true)
    (h80 : o = .keyexp80 → ∃ key, w = loadWk80 key) (h128 : o = .keyexp128 → ∃ key, w = loadWk128 key) :
    EngineInv (acceptKeyexp s w o (latencyOf o)) :=
  have ⟨hnt, hni⟩ := Op.isTransform_of_isKeyexp ho
  { h with
    err_le := codeOk_le
    cnt_of_op := fun _ => ⟨latencyOf_pos hni, le_rfl⟩
    cnt_idle := fun hi => absurd hi hni
    wk_zero := fun hk => absurd (ho.symm.trans hk) (by decide)
    wk_loaded80 := h80
    wk_loaded128 := h128
    no_key_in_keyexp := fun _ => rfl
    key_in_transform := fun ht => absurd (ht.symm.trans hnt) (by decide)
    instance_of_key := fun hv => by cases hv
    x_leftover := fun _ => h.x_leftover (by rw [hidle]; rfl) }

/-- Accepting a transform on an idle engine with `KEYVALID = 1` (R120, R121). -/
theorem acceptTransform (h : EngineInv s) (hidle : s.op = .idle) (hkey : s.keyvalid = true) {o : Op}
    (ho : o.isTransform = true) (x : Nibbles16) : EngineInv (acceptTransform s x o (latencyOf o)) :=
  have ⟨hnk, hni⟩ := Op.isKeyexp_of_isTransform ho
  { h with
    err_le := codeOk_le
    cnt_of_op := fun _ => ⟨latencyOf_pos hni, le_rfl⟩
    cnt_idle := fun hi => absurd hi hni
    wk_zero := fun _ => h.wk_zero (by rw [hidle]; rfl)
    wk_loaded80 := fun hk => by subst hk; cases hnk
    wk_loaded128 := fun hk => by subst hk; cases hnk
    no_key_in_keyexp := fun hk => absurd (hk.symm.trans hnk) (by decide)
    key_in_transform := fun _ => hkey
    x_leftover := fun hx => absurd (ho.symm.trans hx) (by decide) }

/-- Completing KEYEXP with the schedule of a key of the right size (R107, R108). -/
theorem completeKeyexp (h : EngineInv s) (hop : s.op.isKeyexp = true) {rk : RoundKeys} {keysize : Bool}
    (hrk : IsInstance rk keysize) : EngineInv (completeKeyexp { s with cnt := 0 } rk keysize) :=
  { h with
    cnt_of_op := fun hi => absurd rfl hi
    cnt_idle := fun _ => rfl
    wk_zero := fun _ => rfl
    wk_loaded80 := fun hk => by cases hk
    wk_loaded128 := fun hk => by cases hk
    no_key_in_keyexp := fun hk => by cases hk
    key_in_transform := fun _ => rfl
    instance_of_key := fun _ => hrk
    x_leftover := fun _ => h.x_leftover (Op.isTransform_of_isKeyexp hop).1 }

/-- Completing a transform leaves `X` the nibbles of the new `DOUT` (R120, R121, R11). -/
theorem completeTransform (h : EngineInv s) (hop : s.op.isTransform = true) (x : Nibbles16) :
    EngineInv (completeTransform { s with cnt := 0 } x) :=
  { h with
    cnt_of_op := fun hi => absurd rfl hi
    cnt_idle := fun _ => rfl
    wk_zero := fun _ => h.wk_zero (Op.isKeyexp_of_isTransform hop).1
    wk_loaded80 := fun hk => by cases hk
    wk_loaded128 := fun hk => by cases hk
    no_key_in_keyexp := fun hk => by cases hk
    key_in_transform := fun ht => by cases ht
    x_leftover := fun _ => (unpack_pack x).symm
    dout_zero := fun hd => by cases hd }

/-- Whatever is in flight, its completion keeps the invariant: the working key of a KEYEXP is that of some key, so the
schedule it gives is that of a key too (R107, R178). -/
theorem complete (h : EngineInv s) (hop : s.op ≠ .idle) : EngineInv (complete { s with cnt := 0 }) := by
  rcases complete_cases { s with cnt := 0 } with ⟨hi, -⟩ | ⟨ho, hc⟩ | ⟨ho, hc⟩ | ⟨ho, hc⟩ | ⟨ho, hc⟩
  · exact absurd hi hop
  · obtain ⟨key, hkey⟩ := h.wk_loaded80 ho
    rw [hc]
    exact h.completeKeyexp (by rw [ho]; rfl) ⟨keyBytes80 key, by rw [hkey, wkLow_loadWk80]; rfl⟩
  · obtain ⟨key, hkey⟩ := h.wk_loaded128 ho
    rw [hc]
    exact h.completeKeyexp (by rw [ho]; rfl) ⟨key, by rw [hkey]; rfl⟩
  · rw [hc]
    exact h.completeTransform (by rw [ho]; rfl) _
  · rw [hc]
    exact h.completeTransform (by rw [ho]; rfl) _

/-- The tick (R178). -/
theorem engineTick (h : EngineInv s) : EngineInv (engineTick s) := by
  rcases engineTick_cases s with ⟨-, ht⟩ | ⟨hop, hcnt, ht⟩ | ⟨hop, -, ht⟩ <;> rw [ht]
  · exact h
  · obtain ⟨-, hle⟩ := h.cnt_of_op hop
    exact { h with
      cnt_of_op := fun _ => ⟨Nat.sub_pos_of_lt hcnt, (Nat.sub_le _ _).trans hle⟩
      cnt_idle := fun hi => absurd hi hop }
  · exact h.complete hop

/-- A command (R143). -/
theorem command (h : EngineInv s) {v : Byte} (hc : command s v = .next t) : EngineInv t := by
  rcases command_eq_next_cases hc with ⟨e, rfl⟩ | rfl | ⟨hidle, rfl | rfl⟩ | ⟨hidle, hkey, o, ho, rfl⟩
  · exact h.raise e
  · exact h.clearErr
  · exact h.acceptKeyexp hidle rfl (fun _ => ⟨s.key, rfl⟩) (fun hk => by cases hk)
  · exact h.acceptKeyexp hidle rfl (fun hk => by cases hk) (fun _ => ⟨s.key, rfl⟩)
  · exact h.acceptTransform hidle hkey ho _

/-- One clock edge under any inputs (R45). -/
theorem clockEdge (h : EngineInv s) {p : Ports} (hc : clockEdge p s = .next t) : EngineInv t := by
  have hports : ∀ v, EngineInv { Machine.engineTick s with rdata := v } := fun v => h.engineTick.setPorts v _
  rcases clockEdge_eq_next_cases hc with ⟨-, rfl⟩ | ⟨-, ⟨v, rfl⟩ | rfl | hcmd⟩
  · exact engineInv_resetValues _ _ _
  · exact hports v
  · exact (hports 0).writeReg _ _
  · exact (hports 0).command hcmd

end EngineInv

/-- Settles O34: State.reset has the values of R29 with zero round keys and nothing pending. -/
theorem invariantHoldsAtReset : Obligations.InvariantHoldsAtReset :=
  engineInv_resetValues _ _ _

/-- Settles O35: a step is a clock edge, and an edge keeps the invariant because the tick, the register write and every
outcome of a command do. -/
theorem everyStepKeepsTheInvariant : Obligations.EveryStepKeepsTheInvariant := by
  intro s t h hstep
  exact (h.setPorts s.rdata s.inputs.tail).clockEdge hstep

end Sys2Proof.Machine

/-! ### The results
The frame of `RK` and `DOUT` (spec/10_state.md R13, R17): a bus access leaves both, a tick writes them only where
the command in flight completes. -/

namespace Sys2Proof.Machine

/-- A register write leaves the results. -/
theorem writeReg_results (s : State) (a : Addr) (v : Byte) :
    (writeReg s a v).rk = s.rk ∧ (writeReg s a v).dout = s.dout := by
  rcases writeReg_cases s a v with ⟨k, hw⟩ | ⟨k, hw⟩ | hw | hw <;> rw [hw] <;> exact ⟨rfl, rfl⟩

/-- A command, accepted or refused, leaves the results. -/
theorem command_results {s t : State} {v : Byte} (h : command s v = .next t) : t.rk = s.rk ∧ t.dout = s.dout := by
  rcases command_eq_next_cases h with ⟨e, rfl⟩ | rfl | ⟨-, rfl | rfl⟩ | ⟨-, -, o, -, rfl⟩ <;> simp

/-- Outside reset an edge leaves the results as the tick left them. -/
theorem clockEdge_results {p : Ports} {s t : State} (hrst : p.rst = false) (h : clockEdge p s = .next t) :
    t.rk = (engineTick s).rk ∧ t.dout = (engineTick s).dout := by
  rcases clockEdge_eq_next_cases h with ⟨hr, -⟩ | ⟨-, ⟨v, rfl⟩ | rfl | hcmd⟩
  · exact absurd (hr.symm.trans hrst) (by decide)
  · exact ⟨rfl, rfl⟩
  · simpa using writeReg_results { engineTick s with rdata := 0 } p.addr p.wdata
  · simpa using command_results hcmd

/-- A tick that changes `RK` completes a KEYEXP (R107). -/
theorem engineTick_rk_of_not_completing {s : State} (h : ¬ (s.op.isKeyexp = true ∧ s.cnt ≤ 1)) :
    (engineTick s).rk = s.rk := by
  rcases engineTick_cases s with ⟨-, ht⟩ | ⟨-, -, ht⟩ | ⟨-, hcnt, ht⟩ <;> rw [ht]
  rcases complete_cases { s with cnt := 0 } with ⟨-, hc⟩ | ⟨ho, -⟩ | ⟨ho, -⟩ | ⟨-, hc⟩ | ⟨-, hc⟩
  · rw [hc]
  · exact absurd ⟨congrArg Op.isKeyexp ho, hcnt⟩ h
  · exact absurd ⟨congrArg Op.isKeyexp ho, hcnt⟩ h
  · rw [hc, completeTransform_rk]
  · rw [hc, completeTransform_rk]

/-- A tick that changes `DOUT` completes a transform (R120, R121). -/
theorem engineTick_dout_of_not_completing {s : State} (h : ¬ (s.op.isTransform = true ∧ s.cnt ≤ 1)) :
    (engineTick s).dout = s.dout := by
  rcases engineTick_cases s with ⟨-, ht⟩ | ⟨-, -, ht⟩ | ⟨-, hcnt, ht⟩ <;> rw [ht]
  rcases complete_cases { s with cnt := 0 } with ⟨-, hc⟩ | ⟨-, hc⟩ | ⟨-, hc⟩ | ⟨ho, -⟩ | ⟨ho, -⟩
  · rw [hc]
  · rw [hc, completeKeyexp_dout]
  · rw [hc, completeKeyexp_dout]
  · exact absurd ⟨congrArg Op.isTransform ho, hcnt⟩ h
  · exact absurd ⟨congrArg Op.isTransform ho, hcnt⟩ h

/-- A step whose cycle is a reset took it from the pending ones: with none pending the cycle is idle (log entry 4). -/
theorem exists_pending_reset {s : State} (h : (nextPorts s).rst = true) :
    ∃ p ps, s.inputs = p :: ps ∧ p.rst = true := by
  cases hi : s.inputs with
  | nil => simp [nextPorts, hi, idlePorts] at h
  | cons p ps => exact ⟨p, ps, rfl, by simpa [nextPorts, hi] using h⟩

/-- Settles O32: a step that is no reset leaves `RK` and `DOUT` as its tick left them, and the tick writes each only
where a command of its kind completes. -/
theorem resultsChangeOnlyAtCompletionOrReset : Obligations.ResultsChangeOnlyAtCompletionOrReset := by
  intro s t hstep
  cases hrst : (nextPorts s).rst with
  | true => exact ⟨fun _ => .inl (exists_pending_reset hrst), fun _ => .inl (exists_pending_reset hrst)⟩
  | false =>
    obtain ⟨hrk, hdout⟩ := clockEdge_results hrst hstep
    refine ⟨fun hne => .inr ?_, fun hne => .inr ?_⟩
    · by_contra hnot
      exact hne (hrk.trans (engineTick_rk_of_not_completing (s := takePorts s) hnot))
    · by_contra hnot
      exact hne (hdout.trans (engineTick_dout_of_not_completing (s := takePorts s) hnot))

end Sys2Proof.Machine

/-! ### Hidden state
`SameVisible` is a simulation (spec/10_state.md R27, spec/70_reset_and_hazards.md R173, R181): every operation takes
states that differ in hidden state only to such states, and reads answer the same byte. -/

namespace Sys2Proof.Machine

/-- Both meanings answer a next state, and the two differ in hidden state only. -/
def SameOutcome (r r' : Result) : Prop := ∃ s t, r = .next s ∧ r' = .next t ∧ SameVisible s t

namespace SameVisible

variable {s t : State}

/-- Two next states that differ in hidden state only. -/
theorem outcome (h : SameVisible s t) : SameOutcome (.next s) (.next t) := ⟨s, t, rfl, rfl, h⟩

theorem busy_eq (h : SameVisible s t) : busy s = busy t := by rw [busy, busy, h.op]

theorem statusByte_eq (h : SameVisible s t) : statusByte s = statusByte t := by
  rw [statusByte, statusByte, h.err, h.dvalid, h.keysize, h.keyvalid, h.busy_eq]

/-- No register of the map shows hidden state (R41, R27). -/
theorem readReg_eq (h : SameVisible s t) (a : Addr) : readReg s a = readReg t a := by
  rw [← addrOf_regAt a, readReg_addrOf, readReg_addrOf]
  cases regAt a with
  | key k => exact congrArg (·[k.val]) h.key
  | din k => exact congrArg (·[k.val]) h.din
  | dout k => exact congrArg (·[k.val]) h.dout
  | status => exact h.statusByte_eq
  | keylen => exact h.keylen
  | errlen => exact h.errlen
  | cmd | blksize | reserved k => rfl

theorem setRdata (h : SameVisible s t) (v w : Byte) : SameVisible { s with rdata := v } { t with rdata := w } :=
  { h with }

theorem setCnt (h : SameVisible s t) (n : Nat) : SameVisible { s with cnt := n } { t with cnt := n } :=
  { h with cnt := fun _ => rfl }

theorem writeReg (h : SameVisible s t) (a : Addr) (v : Byte) : SameVisible (writeReg s a v) (writeReg t a v) := by
  rw [← addrOf_regAt a, writeReg_addrOf, writeReg_addrOf]
  cases regAt a with
  | key k => exact { h with key := congrArg (·.set k.val v) h.key }
  | din k => exact { h with din := congrArg (·.set k.val v) h.din }
  | keylen => exact { h with keylen := rfl }
  | dout | cmd | status | errlen | blksize | reserved => exact h

theorem raise (h : SameVisible s t) (e : CmdError) : SameVisible (raise s e) (raise t e) := by
  cases e with
  | invalidKeySize l => exact { h with err := rfl, errlen := rfl }
  | noKey | illegalCmd | busyViolation => exact { h with err := rfl }

theorem clearErr (h : SameVisible s t) : SameVisible (clearErr s) (clearErr t) :=
  { h with err := rfl }

/-- An accepted KEYEXP hides `RK`, and `X` stays hidden (R102). -/
theorem acceptKeyexp (h : SameVisible s t) (w : WorkKey) {o : Op} (ho : o.isKeyexp = true) (n : Nat) :
    SameVisible (acceptKeyexp s w o n) (acceptKeyexp t w o n) :=
  have hnt : ¬ o.isTransform = true := by rw [(Op.isTransform_of_isKeyexp ho).1]; decide
  { h with
    err := rfl, keyvalid := rfl, op := rfl, cnt := fun _ => rfl, wk := fun _ => rfl
    rk := fun hrk => hrk.elim (fun hv => by cases hv) (fun ht => absurd ht hnt)
    x := fun ht => absurd ht hnt }

/-- An accepted transform reads an `RK` that was visible already, and `WK` stays hidden (R120, R152). -/
theorem acceptTransform (h : SameVisible s t) (hkey : s.keyvalid = true) (x : Nibbles16) {o : Op}
    (ho : o.isTransform = true) (n : Nat) : SameVisible (acceptTransform s x o n) (acceptTransform t x o n) :=
  have hnk : ¬ o.isKeyexp = true := by rw [(Op.isKeyexp_of_isTransform ho).1]; decide
  { h with
    err := rfl, op := rfl, cnt := fun _ => rfl, x := fun _ => rfl
    rk := fun _ => h.rk (.inl hkey)
    wk := fun hk => absurd hk hnk }

theorem completeKeyexp (h : SameVisible s t) (rk : RoundKeys) (keysize : Bool) :
    SameVisible (completeKeyexp s rk keysize) (completeKeyexp t rk keysize) :=
  { h with
    rk := fun _ => rfl, keysize := rfl, keyvalid := rfl, wk := fun _ => rfl, op := rfl
    cnt := fun hi => absurd rfl hi
    x := fun ht => by cases ht }

theorem completeTransform (h : SameVisible s t) (hrk : s.rk = t.rk) (x : Nibbles16) :
    SameVisible (completeTransform s x) (completeTransform t x) :=
  { h with
    x := fun _ => rfl, dout := rfl, dvalid := rfl, op := rfl
    rk := fun _ => hrk
    wk := fun hk => by cases hk
    cnt := fun hi => absurd rfl hi }

/-- A completion reads `WK` in a KEYEXP, and `RK` and `X` in a transform: what is visible there (R107, R120). -/
theorem complete (h : SameVisible s t) : SameVisible (complete s) (complete t) := by
  cases hop : s.op <;> simp only [Machine.complete, hop, ← h.op]
  case idle => exact h
  case keyexp80 | keyexp128 =>
    rw [← h.wk (by rw [hop]; rfl)]
    exact h.completeKeyexp _ _
  case enc | dec =>
    have htransform : s.op.isTransform = true := by rw [hop]; rfl
    rw [← h.x htransform, ← h.rk (.inr htransform)]
    exact h.completeTransform (h.rk (.inr htransform)) _

/-- The tick, which reads `CNT` of a busy engine only (R178). -/
theorem engineTick (h : SameVisible s t) : SameVisible (engineTick s) (engineTick t) := by
  by_cases hop : s.op = .idle
  · simpa only [Machine.engineTick, if_pos hop, if_pos (h.op.symm.trans hop)] using h
  · simp only [Machine.engineTick, if_neg hop, if_neg (h.op ▸ hop), ← h.cnt hop]
    split
    · exact (h.setCnt _).complete
    · exact h.setCnt _

/-- Reset hides everything the two could still differ in, their `RK` among it (R173). -/
theorem resetEdge (s t : State) : SameVisible (resetEdge s) (resetEdge t) where
  key := rfl
  keylen := rfl
  din := rfl
  dout := rfl
  keyvalid := rfl
  keysize := rfl
  dvalid := rfl
  err := rfl
  errlen := rfl
  op := rfl
  cnt _ := rfl
  rk h := h.elim (fun hv => by cases hv) (fun ht => by cases ht)
  wk _ := rfl
  x _ := rfl

theorem execNop (h : SameVisible s t) : SameOutcome (execNop s) (execNop t) := by
  simp only [Machine.execNop, h.busy_eq]
  split
  · exact (h.raise _).outcome
  · exact h.clearErr.outcome

theorem execKeyexp (h : SameVisible s t) : SameOutcome (execKeyexp s) (execKeyexp t) := by
  simp only [Machine.execKeyexp, h.busy_eq, h.keylen, h.key]
  split_ifs
  · exact (h.raise _).outcome
  · exact (h.acceptKeyexp _ rfl _).outcome
  · exact (h.acceptKeyexp _ rfl _).outcome
  · exact (h.raise _).outcome

theorem execEnc (h : SameVisible s t) : SameOutcome (execEnc s) (execEnc t) := by
  simp only [Machine.execEnc, h.busy_eq, ← h.keyvalid, h.din]
  split_ifs with hb hk
  · exact (h.raise _).outcome
  · exact (h.acceptTransform hk _ rfl _).outcome
  · exact (h.raise _).outcome

theorem execDec (h : SameVisible s t) : SameOutcome (execDec s) (execDec t) := by
  simp only [Machine.execDec, h.busy_eq, ← h.keyvalid, h.din]
  split_ifs with hb hk
  · exact (h.raise _).outcome
  · exact (h.acceptTransform hk _ rfl _).outcome
  · exact (h.raise _).outcome

/-- A command decides by visible state only (R143). -/
theorem command (h : SameVisible s t) (v : Byte) : SameOutcome (command s v) (command t v) := by
  simp only [Machine.command, h.busy_eq]
  split_ifs
  · exact (h.raise _).outcome
  · exact (h.raise _).outcome
  · exact h.execNop
  · exact h.execKeyexp
  · exact h.execEnc
  · exact h.execDec

theorem execWr (h : SameVisible s t) (a : Addr) (v : Byte) : SameOutcome (execWr a v s) (execWr a v t) := by
  rw [execWr_eq, execWr_eq]
  split
  · exact h.command v
  · exact (h.writeReg a v).outcome

/-- One clock edge: the next states differ in hidden state only, and a read returns the same byte (R45, R181). -/
theorem clockEdge (h : SameVisible s t) (p : Ports) :
    ∃ s' t', clockEdge p s = .next s' ∧ clockEdge p t = .next t' ∧ SameVisible s' t' ∧
      (isRead p = true → s'.rdata = t'.rdata) := by
  have htick := h.engineTick.setRdata 0 0
  cases hrst : p.rst with
  | true =>
    exact ⟨_, _, clockEdge_reset s hrst, clockEdge_reset t hrst, resetEdge s t, by simp [isRead, hrst]⟩
  | false =>
    cases hsel : p.sel with
    | false => exact ⟨_, _, clockEdge_idle s hrst hsel, clockEdge_idle t hrst hsel, htick, fun _ => rfl⟩
    | true =>
      cases hwe : p.we with
      | false =>
        exact ⟨_, _, clockEdge_rd s hrst hsel hwe, clockEdge_rd t hrst hsel hwe, htick.setRdata _ _,
          fun _ => htick.readReg_eq p.addr⟩
      | true =>
        obtain ⟨s', t', hs, ht, hst⟩ := htick.execWr p.addr p.wdata
        exact ⟨s', t', (clockEdge_wr s hrst hsel hwe).trans hs, (clockEdge_wr t hrst hsel hwe).trans ht, hst,
          by simp [isRead, hwe]⟩

end SameVisible

/-- The bytes a drive returns: that of the first cycle where it is a read, then those of the rest. -/
theorem drive_bytes_cons {p : Ports} {s t : State} (ps : List Ports) (h : clockEdge p s = .next t) :
    (drive (p :: ps) s).map Prod.fst =
      ((drive ps t).map Prod.fst).map fun bytes => if isRead p then t.rdata :: bytes else bytes := by
  simp only [drive, h]
  cases drive ps t <;> rfl

/-- States that differ in hidden state only return the same bytes under any cycles. -/
theorem SameVisible.drive_bytes {s t : State} (h : SameVisible s t) (ps : List Ports) :
    (drive ps s).map Prod.fst = (drive ps t).map Prod.fst := by
  induction ps generalizing s t with
  | nil => rfl
  | cons p ps ih =>
    obtain ⟨s', t', hs, ht, hst, hread⟩ := h.clockEdge p
    rw [drive_bytes_cons ps hs, drive_bytes_cons ps ht, ih hst]
    cases hp : isRead p with
    | true => rw [hread hp]
    | false => rfl

/-- Settles O43: `SameVisible` is kept by every edge, and the reads of an edge agree. -/
theorem hiddenStateIsNeverObserved : Obligations.HiddenStateIsNeverObserved := by
  intro s t ps h
  rw [observation, observation, h.drive_bytes ps]

end Sys2Proof.Machine

/-! ### Reads after writes
What a register read answers after a write to the same address, to another address, and after a read
(spec/20_memory.md R46, R47). -/

namespace Sys2Proof.Machine

/-- The address of `CMD` is the one that names it (R41). -/
theorem regAt_eq_cmd {a : Addr} : regAt a = .cmd ↔ a = 0x20 := by
  constructor
  · intro h
    rw [← addrOf_regAt a, h]
    rfl
  · rintro rfl
    exact regAt_addrOf .cmd

/-- The addresses of the read/write registers are those of `KEY`, `DIN` and `KEYLEN` (R41). -/
theorem addr_of_readWrite {a : Addr} (h : a.toNat < 0x18 ∨ a = 0x22) :
    (∃ k, a = addrOf (.key k)) ∨ (∃ k, a = addrOf (.din k)) ∨ a = addrOf .keylen := by
  revert a
  decide

/-- A write outside `CMD` is the register write, and answers a next state (R140). -/
theorem exec_wr_of_ne_cmd {a : Addr} (h : a ≠ 0x20) (v : Byte) (s : State) :
    exec (.wr a v) s = .next (writeReg s a v) := by
  have hcmd : regAt a ≠ .cmd := mt regAt_eq_cmd.mp h
  exact (execWr_eq a v s).trans (if_neg hcmd)

/-- A read/write register answers the byte last written to it. -/
theorem readReg_writeReg_same {a : Addr} (h : a.toNat < 0x18 ∨ a = 0x22) (s : State) (v : Byte) :
    readReg (writeReg s a v) a = v := by
  rcases addr_of_readWrite h with ⟨k, rfl⟩ | ⟨k, rfl⟩ | rfl <;>
    simp [writeReg_addrOf, readReg_addrOf]

/-- `STATUS` is put together from fields that are no host buffer and no port (R19). -/
@[simp] theorem statusByte_writeReg (s : State) (a : Addr) (v : Byte) :
    statusByte (writeReg s a v) = statusByte s := by
  rcases writeReg_cases s a v with ⟨k, hw⟩ | ⟨k, hw⟩ | hw | hw <;> rw [hw] <;> rfl

/-- A write of one register is seen by no read of another. The case that needs more than the equations is two bytes of
`KEY`, or of `DIN`: they stand at different positions. -/
theorem readReg_writeReg_addrOf_ne (s : State) (v : Byte) {r q : Reg} (h : q ≠ r) :
    readReg (writeReg s (addrOf r) v) (addrOf q) = readReg s (addrOf q) := by
  cases q with
  | key j =>
    cases r with
    | key k =>
      have hne : k.val ≠ j.val := fun e => h (congrArg Reg.key (Fin.ext e.symm))
      simp [writeReg_addrOf, readReg_addrOf, Vector.getElem_set_ne, hne]
    | _ => simp [writeReg_addrOf, readReg_addrOf]
  | din j =>
    cases r with
    | din k =>
      have hne : k.val ≠ j.val := fun e => h (congrArg Reg.din (Fin.ext e.symm))
      simp [writeReg_addrOf, readReg_addrOf, Vector.getElem_set_ne, hne]
    | _ => simp [writeReg_addrOf, readReg_addrOf]
  | keylen =>
    cases r with
    | keylen => exact absurd rfl h
    | _ => simp [writeReg_addrOf, readReg_addrOf]
  | dout | errlen => cases r <;> simp [writeReg_addrOf, readReg_addrOf]
  | cmd | status | blksize | reserved => simp [readReg_addrOf]

/-- A write outside `CMD` is seen by no read of another address. -/
theorem readReg_writeReg_ne (s : State) (v : Byte) {a b : Addr} (h : b ≠ a) :
    readReg (writeReg s a v) b = readReg s b := by
  have hreg : regAt b ≠ regAt a := fun e => h (by rw [← addrOf_regAt b, e, addrOf_regAt])
  simpa only [addrOf_regAt] using readReg_writeReg_addrOf_ne s v hreg

/-- A write outside `CMD` changes host buffers only (R140). -/
theorem writeReg_eq_update (s : State) (a : Addr) (v : Byte) :
    writeReg s a v =
      { s with key := (writeReg s a v).key, din := (writeReg s a v).din, keylen := (writeReg s a v).keylen } := by
  rcases writeReg_cases s a v with ⟨k, hw⟩ | ⟨k, hw⟩ | hw | hw <;> rw [hw]

/-- The same byte written again changes nothing more. -/
theorem writeReg_writeReg_same (s : State) (a : Addr) (v : Byte) :
    writeReg (writeReg s a v) a v = writeReg s a v := by
  obtain ⟨r, rfl⟩ : ∃ r, a = addrOf r := ⟨regAt a, (addrOf_regAt a).symm⟩
  cases r <;> simp [writeReg_addrOf]

/-- No register is the port `rdata`: what it holds is seen by no read. -/
@[simp] theorem readReg_setRdata (s : State) (w : Byte) (a : Addr) :
    readReg { s with rdata := w } a = readReg s a := by
  unfold readReg
  cases regAt a <;> rfl

/-- Settles O13: off `CMD` a write is `writeReg`, whose read-back, frame by address and frame by field are said above. -/
theorem writtenByteReadsBack : Obligations.WrittenByteReadsBack := by
  intro s a v ha
  have hcmd : a ≠ 0x20 := by
    rintro rfl
    revert ha
    decide
  exact ⟨writeReg s a v, exec_wr_of_ne_cmd hcmd v s, readReg_writeReg_same ha s v,
    fun _ hb => readReg_writeReg_ne s v hb, writeReg_eq_update s a v⟩

/-- Settles O17: no read sees the `rdata` a read has written, and a register write repeated is the write. -/
theorem accessesOutsideCmdAreIdempotent : Obligations.AccessesOutsideCmdAreIdempotent := by
  intro s a
  constructor
  · have hagain : exec (.rd a) { s with rdata := readReg s a } = .next { s with rdata := readReg s a } := by
      simp only [exec, execRd, readReg_setRdata]
    exact ⟨_, rfl, rfl, readReg_setRdata s _, hagain⟩
  · intro v hcmd
    have hagain : exec (.wr a v) (writeReg s a v) = .next (writeReg s a v) := by
      rw [exec_wr_of_ne_cmd hcmd, writeReg_writeReg_same]
    exact ⟨_, exec_wr_of_ne_cmd hcmd v s, hagain⟩

end Sys2Proof.Machine

/-! ### The step and its instruction
A step as the tick and the instruction its cycle carries (spec/20_memory.md R45, spec/30_encoding.md R60, R62). -/

namespace Sys2Proof.Machine

/-- A command byte written to `CMD` runs its command: on a busy engine each is a violation, on an idle one `command`
calls it (R62, R143). -/
theorem exec_wr_cmd {b : Byte} {i : Instr} (h : decodeCmd b = .ok i) (s : State) :
    exec (.wr cmdAddr b) s = exec i s := by
  have hwr : exec (.wr cmdAddr b) s = command s b := (execWr_eq cmdAddr b s).trans (if_pos (regAt_addrOf .cmd))
  rw [hwr]
  by_cases hbusy : busy s
  · rcases decodeCmd_ok h with ⟨-, rfl⟩ | ⟨-, rfl⟩ | ⟨-, rfl⟩ | ⟨-, rfl⟩ <;>
      simp only [command, exec, execNop, execKeyexp, execEnc, execDec, if_pos hbusy]
  · rcases decodeCmd_ok h with ⟨rfl, rfl⟩ | ⟨rfl, rfl⟩ | ⟨rfl, rfl⟩ | ⟨rfl, rfl⟩ <;>
      simp [command, exec, hbusy]

/-- The bus word that carries a code runs the instruction the code decodes to (R62). -/
theorem exec_decodeBus_codeWord {c : Code} {i : Instr} (h : decode c = .ok i) (s : State) :
    exec (decodeBus (codeWord c)) s = exec i s := by
  cases c with
  | bus w =>
    cases h
    rfl
  | cmd b =>
    have hword : decodeBus (codeWord (.cmd b)) = .wr cmdAddr b := by simp [codeWord, decodeBus]
    rw [hword, exec_wr_cmd h]

/-- A step whose cycle carries a code: the tick, then the instruction, with the cycle taken (R45). -/
theorem step_codeWord {s : State} {c : Code} {i : Instr} {ps : List Ports}
    (hin : s.inputs = wordPorts (codeWord c) :: ps) (h : decode c = .ok i) :
    step s = exec i { engineTick s with inputs := ps, rdata := 0x00 } := by
  rw [step_cons hin, clockEdge_wordPorts, engineTick_inputs, exec_decodeBus_codeWord h]

/-- A step whose cycle is a bus access: the tick, then the instruction on the ports, with the cycle taken (R45). -/
theorem step_access {s : State} {p : Ports} {ps : List Ports} (hin : s.inputs = p :: ps) (hrst : p.rst = false)
    (hsel : p.sel = true) :
    step s = exec (decodeBus (portsWord p)) { engineTick s with inputs := ps, rdata := 0x00 } := by
  rw [step_cons hin, clockEdge, hrst, hsel, engineTick_inputs]
  rfl

/-- A table word that decodes is a code, which decodes to the same instruction. -/
theorem decodeTableWord_eq_some {nbits w : Nat} {i : Instr} (h : decodeTableWord nbits w = some i) :
    ∃ c, tableCode nbits w = .ok c ∧ decode c = .ok i := by
  unfold decodeTableWord at h
  cases hc : tableCode nbits w with
  | error e => simp [hc] at h
  | ok c =>
    refine ⟨c, rfl, ?_⟩
    cases hd : decode c with
    | error e => simp [hc, hd, Except.toOption] at h
    | ok j => simpa [hc, hd, Except.toOption] using h

/-- Settles O5: the step lemma of a bus access, and for `withFetchWord` the one of a code, whose cycle it has put
first. -/
theorem stepRunsTheDecodedInstruction : Obligations.StepRunsTheDecodedInstruction := by
  constructor
  · intro s p ps i hin hrst hsel hdec
    cases hdec
    exact step_access hin hrst hsel
  · intro s nbits w i htable
    obtain ⟨c, hcode, hdec⟩ := decodeTableWord_eq_some htable
    have hin : (s.withFetchWord nbits w).inputs = wordPorts (codeWord c) :: s.inputs := by
      simp [State.withFetchWord, tableCycles, hcode]
    have htick : { engineTick (s.withFetchWord nbits w) with inputs := s.inputs } = engineTick s := by
      rw [State.withFetchWord, engineTick_inputs]
      exact (engineTick_inputs s s.inputs).symm
    exact (step_codeWord hin hdec).trans (congrArg (fun u : State => exec i { u with rdata := 0x00 }) htick)

/-- Settles O7: the cycle is idle by its ports, or because none is pending. -/
theorem idleCycleIsTheTickAlone : Obligations.IdleCycleIsTheTickAlone := by
  constructor
  · intro s p ps hin hrst hsel
    rw [step_cons hin, clockEdge_idle _ hrst hsel, engineTick_inputs]
  · intro s hin
    rw [step_nil hin, clockEdge_idle s rfl rfl]

end Sys2Proof.Machine

/-! ### Commands in the completion cycle
What the completing tick leaves, and each command accepted on an idle engine (spec/20_memory.md R45,
spec/60_exceptions.md R155). -/

namespace Sys2Proof.Machine

/-- The tick writes no host buffer (R182). -/
theorem engineTick_buffers (s : State) :
    (engineTick s).key = s.key ∧ (engineTick s).din = s.din ∧ (engineTick s).keylen = s.keylen := by
  rcases engineTick_cases s with ⟨-, ht⟩ | ⟨-, -, ht⟩ | ⟨-, -, ht⟩ <;> rw [ht]
  · exact ⟨rfl, rfl, rfl⟩
  · exact ⟨rfl, rfl, rfl⟩
  · rcases complete_cases { s with cnt := 0 } with ⟨-, hc⟩ | ⟨-, hc⟩ | ⟨-, hc⟩ | ⟨-, hc⟩ | ⟨-, hc⟩ <;> simp [hc]

/-- With no cycle after this one the tick of a busy engine completes the command (R178). -/
theorem engineTick_completes {s : State} (hop : s.op ≠ .idle) (hcnt : s.cnt ≤ 1) :
    engineTick s = complete { s with cnt := 0 } := by
  rcases engineTick_cases s with ⟨hidle, -⟩ | ⟨-, hlt, -⟩ | ⟨-, -, ht⟩
  · exact absurd hidle hop
  · omega
  · exact ht

/-- A completion keeps `KEYVALID` at 1, and that of a KEYEXP sets it (R107, R120). -/
theorem complete_keyvalid (s : State) : (complete s).keyvalid = (s.keyvalid || s.op.isKeyexp) := by
  rcases complete_cases s with ⟨hop, hc⟩ | ⟨hop, hc⟩ | ⟨hop, hc⟩ | ⟨hop, hc⟩ | ⟨hop, hc⟩ <;>
    simp [hc, hop, Op.isKeyexp]

/-- What a completion makes of the key sampled at accept (R107). -/
theorem complete_keyexp80 {s : State} {key : Vector Byte 16} (hop : s.op = .keyexp80) (hwk : s.wk = loadWk80 key) :
    (complete s).rk = ks80 (keyBytes80 key) ∧ (complete s).keyvalid = true := by
  rw [complete, hop, hwk, wkLow_loadWk80]
  exact ⟨rfl, rfl⟩

theorem complete_keyexp128 {s : State} {key : Vector Byte 16} (hop : s.op = .keyexp128) (hwk : s.wk = loadWk128 key) :
    (complete s).rk = ks128 key ∧ (complete s).keyvalid = true := by
  rw [complete, hop, hwk]
  exact ⟨rfl, rfl⟩

/-- What a completion makes of the block sampled at accept (R120, R121). -/
theorem complete_enc {s : State} {b : Block} (hop : s.op = .enc) (hx : s.x = unpack b) :
    (complete s).dout = encrypt s.rk b ∧ (complete s).dvalid = true := by
  rw [complete, hop, hx]
  exact ⟨rfl, rfl⟩

theorem complete_dec {s : State} {b : Block} (hop : s.op = .dec) (hx : s.x = unpack b) :
    (complete s).dout = decrypt s.rk b ∧ (complete s).dvalid = true := by
  rw [complete, hop, hx]
  exact ⟨rfl, rfl⟩

section Accepted
/-! Each command on an idle engine, its own check passed (R102, R120, R121, R142). -/

variable {s : State}

theorem exec_nop_idle (hop : s.op = .idle) : exec .nop s = .next (clearErr s) := by
  simp [exec, execNop, busy, hop]

theorem exec_keyexp80_idle (hop : s.op = .idle) (hlen : s.keylen = 10) :
    exec .keyexp s = .next (acceptKeyexp s (loadWk80 s.key) .keyexp80 Config.latKeyexp80) := by
  simp [exec, execKeyexp, busy, hop, hlen]

theorem exec_keyexp128_idle (hop : s.op = .idle) (hlen : s.keylen = 16) :
    exec .keyexp s = .next (acceptKeyexp s (loadWk128 s.key) .keyexp128 Config.latKeyexp128) := by
  simp [exec, execKeyexp, busy, hop, hlen]

theorem exec_enc_idle (hop : s.op = .idle) (hkey : s.keyvalid = true) :
    exec .enc s = .next (acceptTransform s (loadX s.din) .enc Config.latEnc) := by
  simp [exec, execEnc, busy, hop, hkey]

theorem exec_dec_idle (hop : s.op = .idle) (hkey : s.keyvalid = true) :
    exec .dec s = .next (acceptTransform s (loadX s.din) .dec Config.latDec) := by
  simp [exec, execDec, busy, hop, hkey]

end Accepted

/-- Settles O30: the tick completes the command in flight, and the command in its cycle runs on the idle engine it
leaves, with the host buffers of before. -/
theorem commandInTheCompletionCycleIsAccepted : Obligations.CommandInTheCompletionCycleIsAccepted := by
  intro s ps hop hcnt
  have htick : engineTick s = complete { s with cnt := 0 } := engineTick_completes hop hcnt.le
  have hidle : (engineTick s).op = .idle := by rw [htick, complete_op]
  have hkeyvalid (h : s.keyvalid = true ∨ s.op.isKeyexp = true) : (engineTick s).keyvalid = true := by
    simpa [htick, complete_keyvalid] using h
  obtain ⟨hkey, hdin, hkeylen⟩ := engineTick_buffers s
  refine ⟨hidle, fun key => ⟨fun ho hwk => ?_, fun ho hwk => ?_⟩, fun b hx => ⟨fun ho => ?_, fun ho => ?_⟩,
    fun hin => ?_, fun hin hlen => ?_, fun hin hlen => ?_, fun hin hk => ?_, fun hin hk => ?_⟩
  · rw [htick]
    exact complete_keyexp80 ho hwk
  · rw [htick]
    exact complete_keyexp128 ho hwk
  · rw [htick]
    exact complete_enc ho hx
  · rw [htick]
    exact complete_dec ho hx
  · exact (step_codeWord hin rfl).trans (exec_nop_idle hidle)
  · rw [← hkey]
    exact (step_codeWord hin rfl).trans (exec_keyexp80_idle hidle (hkeylen.trans hlen))
  · rw [← hkey]
    exact (step_codeWord hin rfl).trans (exec_keyexp128_idle hidle (hkeylen.trans hlen))
  · rw [← hdin]
    exact (step_codeWord hin rfl).trans (exec_enc_idle hidle (hkeyvalid hk))
  · rw [← hdin]
    exact (step_codeWord hin rfl).trans (exec_dec_idle hidle (hkeyvalid hk))

end Sys2Proof.Machine

/-! ### Codes and instructions
Encoding and decoding undo each other; the rows of the opcode table; the encodings that are refused and the accesses
that do nothing (spec/30_encoding.md R60 to R63, spec/20_memory.md R50). -/

namespace Sys2Proof.Machine

/-- A word put together from ports is the bus operation on them; a `RD` drops the data byte (R60, R62). -/
@[simp] theorem decodeBus_joinBus (we : Bool) (a : Addr) (v : Byte) :
    decodeBus (joinBus we a v) = if we then .wr a v else .rd a := by
  simp [decodeBus]

/-- The decoder undoes the encoder, on both formats. -/
theorem decode_encode (i : Instr) : decode (encode i) = .ok i := by
  cases i with
  | wr a v => simp [encode, decode]
  | rd a => simp [encode, decode]
  | nop | keyexp | enc | dec => rfl

/-- The mask of the two bus rows leaves bit 14, which is `we` (R60, R62). -/
theorem and_busMask (w : BusWord) : w &&& 0x4000#15 = if fieldWe w then 0x4000#15 else 0#15 :=
  BitVec.and_twoPow w 14

/-- Every instruction's code lies in its row of the opcode table. -/
theorem rowMatches_encode (i : Instr) : rowMatches (opcodeRow i) (encode i) = true := by
  cases i with
  | wr a v => simp [rowMatches, opcodeRow, encode, and_busMask]
  | rd a => simp [rowMatches, opcodeRow, encode, and_busMask]
  | nop | keyexp | enc | dec => rfl

/-- The bus word of a bus operation is its encoding; a command is issued by a write of its byte to `CMD` (R62). -/
theorem decode_busWord (i : Instr) :
    decode (.bus (busWord i)) = .ok
      (match encode i with
        | .bus _ => i
        | .cmd b => .wr cmdAddr b) := by
  cases i <;> simp [busWord, codeWord, encode, decode]

/-- Settles O1: the three facts about `encode` above, the last read at each constructor. -/
theorem decodeOfEncodeIsTheInstruction : Obligations.DecodeOfEncodeIsTheInstruction := by
  intro i _
  refine ⟨decode_encode i, rowMatches_encode i, (decode_busWord i).trans ?_⟩
  cases i <;> rfl

/-- A bus word is the encoding of its instruction, but for the data byte of a `RD`, which is not kept (R60). -/
theorem encode_decodeBus (w : BusWord) :
    encode (decodeBus w) = if fieldWe w then .bus w else .bus (joinBus false (fieldAddr w) 0) := by
  cases hwe : fieldWe w with
  | true =>
    have hw : joinBus true (fieldAddr w) (fieldWdata w) = w := by rw [← hwe, joinBus_fields]
    simp [decodeBus, hwe, encode, hw]
  | false => simp [decodeBus, hwe, encode]

/-- A command byte is the encoding of its command (R62). -/
theorem encode_of_decodeCmd {b : Byte} {i : Instr} (h : decodeCmd b = .ok i) : encode i = .cmd b := by
  rcases decodeCmd_ok h with ⟨rfl, rfl⟩ | ⟨rfl, rfl⟩ | ⟨rfl, rfl⟩ | ⟨rfl, rfl⟩ <;> rfl

/-- Settles O2: a bus word by its fields, a command byte by the four bytes that decode. -/
theorem encodeOfDecodeIsTheCode : Obligations.EncodeOfDecodeIsTheCode := by
  intro c i h
  cases c with
  | bus w =>
    cases h
    exact encode_decodeBus w
  | cmd b => exact encode_of_decodeCmd h

/-- Bytes above the four commands are refused by the decoder (R63). -/
theorem decodeCmd_illegal {b : Byte} (h : 0x04 ≤ b.toNat) : decodeCmd b = .error (.illegalCommand b) := by
  have hne (c : Byte) (hc : c.toNat < 0x04) : b ≠ c := by
    rintro rfl
    omega
  rw [decodeCmd_eq, if_neg (hne 0x00 (by decide)), if_neg (hne 0x01 (by decide)), if_neg (hne 0x02 (by decide)),
    if_neg (hne 0x03 (by decide))]

/-- The four bytes below are commands (R62). -/
theorem decodeCmd_legal {b : Byte} (h : b.toNat < 0x04) : ∃ i, decodeCmd b = .ok i := by
  have hb : b = 0x00 ∨ b = 0x01 ∨ b = 0x02 ∨ b = 0x03 := by bv_omega
  rcases hb with rfl | rfl | rfl | rfl <;> exact ⟨_, rfl⟩

/-- A write to `CMD` is the command of its byte (R143). -/
theorem exec_wr_cmdAddr (b : Byte) (s : State) : exec (.wr cmdAddr b) s = command s b :=
  (execWr_eq cmdAddr b s).trans (if_pos (regAt_addrOf .cmd))

/-- An illegal byte written to `CMD` of an idle engine is taken as an error (R63, R143). -/
theorem command_illegal {s : State} {b : Byte} (hop : s.op = .idle) (h : 0x04 ≤ b.toNat) :
    command s b = .next (raise s .illegalCmd) := by
  have hbusy : ¬ busy s = true := by simpa using hop
  rw [command, if_neg hbusy, if_pos (show b.toNat > 0x03 from h)]

/-- The reserved addresses, and the read-only ones, as registers (R41, R50). -/
theorem addr_of_reserved : ∀ a : Addr, 0x25 ≤ a.toNat → ∃ k, a = addrOf (.reserved k) := by decide

theorem addr_of_readOnly : ∀ a : Addr, (0x18 ≤ a.toNat ∧ a.toNat ≤ 0x1F) ∨ a = 0x21 ∨ a = 0x23 ∨ a = 0x24 →
    (∃ k, a = addrOf (.dout k)) ∨ a = addrOf .status ∨ a = addrOf .errlen ∨ a = addrOf .blksize := by decide

/-- A write to a register is, off `CMD`, the register write. -/
theorem exec_wr_addrOf {r : Reg} (h : r ≠ .cmd) (v : Byte) (s : State) :
    exec (.wr (addrOf r) v) s = .next (writeReg s (addrOf r) v) := by
  refine exec_wr_of_ne_cmd (fun ha => h ?_) v s
  rw [← regAt_addrOf r, regAt_eq_cmd.mpr ha]

/-- Settles O3: the decoder by the value of the byte, the error of `command`, and the registers that store nothing. -/
theorem reservedAndIllegalEncodings : Obligations.ReservedAndIllegalEncodings := by
  refine ⟨fun _ => decodeCmd_illegal, fun _ => decodeCmd_legal, fun s b hop hb => ?_, fun w => ⟨_, rfl⟩,
    fun s a v ha => ?_, fun s a v ha => ?_⟩
  · exact (exec_wr_cmdAddr b s).trans (command_illegal hop hb)
  · obtain ⟨k, rfl⟩ := addr_of_reserved a ha
    refine ⟨?_, ?_⟩
    · rw [exec_wr_addrOf (by simp), writeReg_addrOf]
    · rw [exec, execRd, readReg_addrOf]
  · rcases addr_of_readOnly a ha with ⟨k, rfl⟩ | rfl | rfl | rfl <;>
      rw [exec_wr_addrOf (by simp), writeReg_addrOf]

/-- Settles O4: closed words, evaluated. -/
theorem wordsOfTheListingsDecode : Obligations.WordsOfTheListingsDecode := by
  unfold Obligations.WordsOfTheListingsDecode
  decide

/-- Settles O6: the write to `CMD` of a byte that decodes. -/
theorem commandByteOnTheBusRunsTheCommand : Obligations.CommandByteOnTheBusRunsTheCommand :=
  fun s _ _ h => exec_wr_cmd h s

end Sys2Proof.Machine

/-! ### The round constant
The injection as a split immediate (spec/30_encoding.md R65). -/

namespace Sys2Proof.Machine

/-- The two halves of a round constant as numbers (R65). -/
theorem toNat_rconHi (c : BitVec 6) : (rconHi c).toNat = c.toNat / 8 := by
  revert c
  decide

theorem toNat_rconLo (c : BitVec 6) : (rconLo c).toNat = c.toNat % 8 := by
  revert c
  decide

/-- Each half is three bits wide, zero-extended (R65). -/
theorem rconHi_bit3 (c : BitVec 6) : (rconHi c).getLsbD 3 = false := by simp [rconHi]

theorem rconLo_bit3 (c : BitVec 6) : (rconLo c).getLsbD 3 = false := by simp [rconLo]

/-- Settles O51: what stands at positions 7, 19 and elsewhere after the injection, and what the halves are. -/
theorem roundConstantInjection : Obligations.RoundConstantInjection := by
  intro n hn w c
  have h7 : (inject hn w c)[7] = w[7] ^^^ rconHi c := getElem_inject hn w c 7 _
  have h19 : (inject hn w c)[19] = w[19] ^^^ rconLo c := getElem_inject hn w c 19 _
  have hcancel (u v : Nibble) : u ^^^ v ^^^ u = v := by rw [BitVec.xor_comm, ← BitVec.xor_assoc]; simp
  refine ⟨?_, ?_, ?_, ?_, fun i hi hi7 hi19 => ?_⟩
  · rw [h7, hcancel, toNat_rconHi]
  · rw [h19, hcancel, toNat_rconLo]
  · rw [h7, BitVec.getLsbD_xor, rconHi_bit3, Bool.xor_false]
  · rw [h19, BitVec.getLsbD_xor, rconLo_bit3, Bool.xor_false]
  · rw [getElem_inject, if_neg hi19, if_neg hi7]

end Sys2Proof.Machine

/-! ### Decryption undoes encryption
The round primitives undone one by one, and the rounds by induction on the list of round keys
(spec/42_block_transform.md R122, R123, R127; spec/40_constant_tables.md R82, R85 to R87). -/

namespace Sys2Proof.Machine

/-- A byte is its two nibbles (R84, R85). -/
@[simp] theorem hiNibble_append_loNibble (b : Byte) : hiNibble b ++ loNibble b = b := by
  rw [hiNibble, loNibble, BitVec.extractLsb'_append_extractLsb'_eq_extractLsb' (by decide)]
  exact BitVec.extractLsb'_eq_self

/-- The two nibbles of byte `k` as `Unpack` places them (R84). -/
theorem unpack_hi (b : Block) (k : Nat) (hk : k < 8) : (unpack b)[2 * k] = hiNibble b[k] := by
  have heven : 2 * k % 2 = 0 := by omega
  have hhalf : 2 * k / 2 = k := by omega
  simp only [getElem_unpack, if_pos heven, hhalf]

theorem unpack_lo (b : Block) (k : Nat) (hk : k < 8) : (unpack b)[2 * k + 1] = loNibble b[k] := by
  have hodd : (2 * k + 1) % 2 ≠ 0 := by omega
  have hhalf : (2 * k + 1) / 2 = k := by omega
  simp only [getElem_unpack, if_neg hodd, hhalf]

/-- `Pack` undoes `Unpack` (R85). -/
theorem pack_unpack (b : Block) : pack (unpack b) = b := by
  ext1 k hk
  calc (pack (unpack b))[k] = (unpack b)[2 * k] ++ (unpack b)[2 * k + 1] := getElem_pack _ k hk
    _ = hiNibble b[k] ++ loNibble b[k] := by rw [unpack_hi b k hk, unpack_lo b k hk]
    _ = b[k] := hiNibble_append_loNibble _

/-- A step leaves the even positions, from which it is computed, so a second one takes it back (R86). -/
theorem feistelStep_feistelStep (k : RoundKey) (x : Nibbles16) : feistelStep (feistelStep x k) k = x := by
  ext1 i hi
  rw [getElem_feistelStep]
  split
  next heven => rw [getElem_feistelStep, if_pos heven]
  next hodd =>
    have hi' : 2 * (i / 2) + 1 = i := by omega
    have heven : 2 * (i / 2) % 2 = 0 := by omega
    simp only [laneOut, getElem_feistelStep, hi', if_pos heven, if_neg hodd]
    rw [BitVec.xor_assoc, BitVec.xor_self, BitVec.xor_zero]

/-- The writes of `Permute` at the sources `hs`, read at the destination of `h`: an injective table sends no other
source there. -/
theorem getElem_foldl_permute {t : Vector (Fin 16) 16} (ht : Function.Injective fun h : Fin 16 => t[h.val])
    (x : Nibbles16) (h : Fin 16) (hs : List (Fin 16)) (y : Nibbles16) :
    (hs.foldl (fun (y : Nibbles16) (h : Fin 16) => y.set (t[h.val]).val x[h.val] (t[h.val]).isLt) y)[(t[h.val]).val] =
      if h ∈ hs then x[h.val] else y[(t[h.val]).val] := by
  induction hs generalizing y with
  | nil => simp
  | cons g hs ih =>
    rw [List.foldl_cons, ih]
    by_cases hmem : h ∈ hs
    · simp [hmem]
    · by_cases hg : h = g
      · subst hg
        simp [hmem]
      · have hne : (t[g.val]).val ≠ (t[h.val]).val := fun e => hg (ht (Fin.ext e)).symm
        simp [hmem, hg, Vector.getElem_set_ne, hne]

/-- `Permute` moves the nibble at `h` to where the table says, for an injective table (R87). -/
theorem getElem_permute {t : Vector (Fin 16) 16} (ht : Function.Injective fun h : Fin 16 => t[h.val]) (x : Nibbles16)
    (h : Fin 16) : (permute t x)[(t[h.val]).val] = x[h.val] := by
  rw [permute, getElem_foldl_permute ht, if_pos (List.mem_finRange h)]

/-- Tables that undo each other give permutations that do (R87). -/
theorem permute_permute {t u : Vector (Fin 16) 16} (hut : ∀ h : Fin 16, u[(t[h.val]).val] = h)
    (htu : ∀ h : Fin 16, t[(u[h.val]).val] = h) (x : Nibbles16) : permute u (permute t x) = x := by
  have hu : Function.Injective fun h : Fin 16 => u[h.val] :=
    Function.LeftInverse.injective (g := fun h : Fin 16 => t[h.val]) htu
  have ht : Function.Injective fun h : Fin 16 => t[h.val] :=
    Function.LeftInverse.injective (g := fun h : Fin 16 => u[h.val]) hut
  ext1 i hi
  calc (permute u (permute t x))[i] = (permute u (permute t x))[(u[(t[i]).val]).val] := by
        simp only [hut ⟨i, hi⟩]
    _ = (permute t x)[(t[i]).val] := getElem_permute hu _ t[i]
    _ = x[i] := getElem_permute ht x ⟨i, hi⟩

/-- The two shuffles undo each other (R82). -/
theorem shufinv_shuf : ∀ h : Fin 16, shufinvRom[(shufRom[h.val]).val] = h := by decide

theorem shuf_shufinv : ∀ h : Fin 16, shufRom[(shufinvRom[h.val]).val] = h := by decide

/-- Rounds run backwards undo the rounds. A round is a step and then `p`, the last one a step only; `q` undoes `p` and
every step undoes itself. The last round key is the first one used on the way back. -/
theorem rounds_undo {α κ : Type} {step : α → κ → α} {p q : α → α} (hstep : ∀ k x, step (step x k) k = x)
    (hqp : ∀ x, q (p x) = x) (k : κ) (ks : List κ) (x : α) :
    step (ks.reverse.foldl (fun y k => q (step y k))
      (step ((k :: ks).dropLast.foldl (fun y k => p (step y k)) x)
        ((k :: ks).getLast (List.cons_ne_nil k ks)))) k = x := by
  induction ks generalizing k x with
  | nil => exact hstep k x
  | cons k' ks ih =>
    rw [List.reverse_cons, List.foldl_append, List.dropLast_cons_cons, List.foldl_cons, List.getLast_cons_cons,
      List.foldl_cons, List.foldl_nil, ih, hqp, hstep]

/-- The first round key and those that `Decrypt` runs back along are the whole table. -/
theorem roundKeys_cons_drop (rk : RoundKeys) : rk[0] :: rk.toList.drop 1 = rk.toList := by
  rw [← Vector.getElem_toList (xs := rk) (i := 0) (by simp), List.getElem_cons_drop, List.drop_zero]

/-- The round keys of `Encrypt` before the last one, and the last one. -/
theorem roundKeys_take (rk : RoundKeys) : rk.toList.take 35 = (rk[0] :: rk.toList.drop 1).dropLast := by
  simp only [roundKeys_cons_drop, List.dropLast_eq_take, Vector.length_toList]

theorem roundKeys_last (rk : RoundKeys) :
    rk[35] = (rk[0] :: rk.toList.drop 1).getLast (List.cons_ne_nil _ _) := by
  simp only [roundKeys_cons_drop, List.getLast_eq_getElem, Vector.length_toList, Vector.getElem_toList]

/-- `Decrypt` undoes `Encrypt`, for every round-key table and every block (R127). -/
theorem decrypt_encrypt (rk : RoundKeys) (b : Block) : decrypt rk (encrypt rk b) = b := by
  have hrounds : decryptNibbles rk (encryptNibbles rk (unpack b)) = unpack b := by
    rw [decryptNibbles, encryptNibbles, roundKeys_take, roundKeys_last]
    exact rounds_undo feistelStep_feistelStep (permute_permute shufinv_shuf shuf_shufinv) rk[0] _ (unpack b)
  rw [decrypt, encrypt, unpack_pack, hrounds, pack_unpack]

end Sys2Proof.Machine

/-! ### Lines of a host program
One rule per line that the calls use: a line that only writes buffers, a command line, `POLL` and `RDBLK`
(spec/30_encoding.md R72, spec/20_memory.md R45). -/

namespace Sys2Proof.Machine

/-- Two states that differ at most in the host buffers `KEY`, `DIN`, `KEYLEN` and the port `rdata`. -/
def BuffersOnly (s t : State) : Prop :=
  t = { s with key := t.key, din := t.din, keylen := t.keylen, rdata := t.rdata }

theorem BuffersOnly.trans {s t u : State} (hst : BuffersOnly s t) (htu : BuffersOnly t u) : BuffersOnly s u := by
  unfold BuffersOnly at *
  rw [htu, hst]

/-- A register write off `CMD`, with the port at any value, changes buffers only. -/
theorem buffersOnly_writeReg (s : State) (v : Byte) (a : Addr) (w : Byte) :
    BuffersOnly s (writeReg { s with rdata := v } a w) := by
  unfold BuffersOnly
  rcases writeReg_cases { s with rdata := v } a w with ⟨k, hw⟩ | ⟨k, hw⟩ | hw | hw <;> rw [hw]

/-- An idle engine's tick does nothing (R178). -/
theorem engineTick_idle {s : State} (hop : s.op = .idle) : engineTick s = s := by simp [engineTick, hop]

/-- The cycle by which an instruction is issued: the tick, then the instruction (R45, R62). -/
theorem clockEdge_instrPorts (i : Instr) (s : State) :
    clockEdge (instrPorts i) s = exec i { engineTick s with rdata := 0 } := by
  rw [instrPorts, busWord, clockEdge_wordPorts, exec_decodeBus_codeWord (decode_encode i)]

/-- One cycle that returns no byte. -/
theorem drive_single {p : Ports} {s t : State} (hp : isRead p = false) (h : clockEdge p s = .next t) :
    drive [p] s = some ([], t) := by
  rw [drive_cons h rfl, hp]
  rfl

/-- The cycle of a register write, on an idle engine, off `CMD`. -/
theorem clockEdge_wrCycle_idle {s : State} (hop : s.op = .idle) {a : Addr} (ha : a ≠ 0x20) (v : Byte) :
    clockEdge (wrCycle a v) s = .next (writeReg { s with rdata := 0 } a v) := by
  rw [wrCycle, clockEdge_instrPorts, engineTick_idle hop, exec_wr_of_ne_cmd ha]

theorem isRead_wrCycle (a : Addr) (v : Byte) : isRead (wrCycle a v) = false := by
  simp [isRead, wrCycle, instrPorts, wordPorts, busWord, codeWord, encode]

theorem isRead_rdCycle (a : Addr) : isRead (rdCycle a) = true := by
  simp [isRead, rdCycle, instrPorts, wordPorts, busWord, codeWord, encode]

/-- The first write of a row of writes, then the rest, one address on. -/
theorem wrBytes_cons (base : Nat) (b : Byte) (bytes : List Byte) :
    wrBytes base (b :: bytes) = wrCycle (BitVec.ofNat 6 base) b :: wrBytes (base + 1) bytes := by
  simp [wrBytes, List.mapIdx_cons, Nat.add_assoc, Nat.add_comm 1]

/-- Bytes written to consecutive addresses of `KEY` and `DIN` on an idle engine: buffers only change, each address
answers its byte, and the addresses below are as before (R140). -/
theorem drive_wrBytes (bytes : List Byte) {base : Nat} {s : State} (hop : s.op = .idle)
    (hbase : base + bytes.length ≤ 0x18) :
    ∃ t, drive (wrBytes base bytes) s = some ([], t) ∧ BuffersOnly s t ∧
      (∀ (k : Nat) (hk : k < bytes.length), readReg t (BitVec.ofNat 6 (base + k)) = bytes[k]) ∧
      ∀ a : Addr, a.toNat < base → readReg t a = readReg s a := by
  induction bytes generalizing base s with
  | nil => exact ⟨s, rfl, rfl, fun k hk => absurd hk (Nat.not_lt_zero k), fun _ _ => rfl⟩
  | cons b bytes ih =>
    rw [List.length_cons] at hbase
    have haddr : (BitVec.ofNat 6 base).toNat = base := by rw [BitVec.toNat_ofNat, Nat.mod_eq_of_lt (by omega)]
    have hcmd : BitVec.ofNat 6 base ≠ 0x20 := by
      intro h
      have hbase20 : base = 0x20 := haddr.symm.trans (congrArg BitVec.toNat h)
      omega
    have hbuf := buffersOnly_writeReg s 0 (BitVec.ofNat 6 base) b
    have hidle : (writeReg { s with rdata := 0 } (BitVec.ofNat 6 base) b).op = .idle := by rw [hbuf, hop]
    obtain ⟨t, hdrive, hst, hread, hbelow⟩ := ih hidle (show base + 1 + bytes.length ≤ 0x18 by omega)
    refine ⟨t, ?_, hbuf.trans hst, ?_, ?_⟩
    · rw [wrBytes_cons, drive_cons (clockEdge_wrCycle_idle hop hcmd b) hdrive, isRead_wrCycle]
      rfl
    · intro k hk
      cases k with
      | zero =>
        rw [Nat.add_zero, hbelow _ (by omega), readReg_writeReg_same (by omega)]
        rfl
      | succ k =>
        rw [List.getElem_cons_succ, ← hread k (by simpa using hk), Nat.add_assoc, Nat.add_comm 1]
    · intro a ha
      have hne : a ≠ BitVec.ofNat 6 base := by
        rintro rfl
        omega
      rw [hbelow a (by omega), readReg_writeReg_ne _ _ hne, readReg_setRdata]

/-- `LDKEY` on an idle engine: `KEYLEN` is the number of bytes, `KEY` begins with them, and nothing but host buffers
has changed (R72, R140). -/
theorem runLine_ldkey (fuel : Nat) {s : State} (hop : s.op = .idle) {bytes : List Byte} (hlen : bytes.length ≤ 255) :
    ∃ t, runLine fuel (.ldkey bytes) s = some ([], t) ∧ BuffersOnly s t ∧ t.keylen = BitVec.ofNat 8 bytes.length ∧
      ∀ (k : Nat) (hk : k < bytes.length) (hk16 : k < 16), t.key[k] = bytes[k] := by
  have htake : 0x00 + (bytes.take 16).length ≤ 0x18 := by rw [List.length_take]; omega
  obtain ⟨t, hdrive, hst, hread, -⟩ := drive_wrBytes (bytes.take 16) hop htake
  have hidle : t.op = .idle := by rw [hst, hop]
  have hlast := drive_single (isRead_wrCycle _ _)
    (clockEdge_wrCycle_idle hidle (show addrOf .keylen ≠ 0x20 by decide) (BitVec.ofNat 8 bytes.length))
  refine ⟨writeReg { t with rdata := 0 } (addrOf .keylen) (BitVec.ofNat 8 bytes.length), ?_,
    hst.trans (buffersOnly_writeReg t 0 _ _), ?_, ?_⟩
  · simp only [runLine, HostLine.wf, hlen, decide_true, if_true, lineCycles]
    exact drive_append hdrive hlast
  · rw [writeReg_addrOf]
  · intro k hk hk16
    have hbyte := hread k (by rw [List.length_take]; omega)
    rw [Nat.zero_add, List.getElem_take] at hbyte
    rw [writeReg_addrOf, ← hbyte]
    exact (readReg_addrOf t (.key ⟨k, hk16⟩)).symm

/-- `LDBLK` on an idle engine: `DIN` is the block, and nothing but host buffers has changed (R72, R140). -/
theorem runLine_ldblk (fuel : Nat) {s : State} (hop : s.op = .idle) (b : Block) :
    ∃ t, runLine fuel (.ldblk b.toList) s = some ([], t) ∧ BuffersOnly s t ∧ t.din = b := by
  obtain ⟨t, hdrive, hst, hread, -⟩ := drive_wrBytes (base := 0x10) b.toList hop (by simp)
  refine ⟨t, ?_, hst, ?_⟩
  · simpa only [runLine, HostLine.wf, Vector.length_toList, decide_true, if_true, lineCycles] using hdrive
  · ext1 k hk
    have hbyte := hread k (by simpa using hk)
    rw [Vector.getElem_toList] at hbyte
    rw [← hbyte]
    exact (readReg_addrOf t (.din ⟨k, hk⟩)).symm

/-- The lines after the first. -/
theorem runLines_cons {fuel : Nat} {l : HostLine} {ls : List HostLine} {s t u : State} {bytes rest : List Byte}
    (h : runLine fuel l s = some (bytes, t)) (hls : runLines fuel ls t = some (rest, u)) :
    runLines fuel (l :: ls) s = some (bytes ++ rest, u) := by
  simp only [runLines, h, hls, Option.map_some]

/-- A completion neither reads nor changes the port (R178). -/
theorem complete_setRdata (s : State) (v : Byte) : complete { s with rdata := v } = { complete s with rdata := v } := by
  cases hop : s.op <;> simp [complete, hop, completeKeyexp, completeTransform]

/-- The engine with the command in flight completed: what its last tick leaves (R178). -/
def completed (s : State) : State := complete { s with cnt := 0 }

@[simp] theorem completed_op (s : State) : (completed s).op = .idle := complete_op _

/-- However many cycles are left and whatever stands on the port, the results are the same. -/
theorem completed_of_counting (s : State) (n : Nat) (v : Byte) :
    completed { s with cnt := n, rdata := v } = { completed s with rdata := v } :=
  complete_setRdata { s with cnt := 0 } v

/-- The state after a read of `STATUS` by an idle engine. -/
def statusRead (s : State) : State := { s with rdata := statusByte s }

/-- A POLL on an idle engine reads `STATUS` once. -/
theorem pollLoop_idle {fuel : Nat} {s : State} (hfuel : 0 < fuel) (hop : s.op = .idle) :
    pollLoop fuel s = some (statusByte s, statusRead s) := by
  obtain ⟨fuel, rfl⟩ := Nat.exists_eq_succ_of_ne_zero hfuel.ne'
  have hbusy : ¬ busy s = true := by simpa using hop
  rw [pollLoop_succ, engineTick_idle hop, if_neg hbusy]
  rfl

/-- A POLL with a command in flight reads `STATUS` until the command has completed, which it does while the bound
covers the cycles left (R178, R180). -/
theorem pollLoop_busy {fuel : Nat} {s : State} (hfuel : 0 < fuel) (hop : s.op ≠ .idle) (hcnt : s.cnt ≤ fuel) :
    pollLoop fuel s = some (statusByte (completed s), statusRead (completed s)) := by
  induction fuel generalizing s with
  | zero => omega
  | succ fuel ih =>
    rw [pollLoop_succ]
    rcases engineTick_cases s with ⟨hidle, -⟩ | ⟨-, hlt, htick⟩ | ⟨-, -, htick⟩
    · exact absurd hidle hop
    · have hbusy : busy (engineTick s) = true := by simpa [htick] using hop
      have hrest := ih (s := { s with cnt := s.cnt - 1, rdata := statusByte { s with cnt := s.cnt - 1 } })
        (by omega) hop (show s.cnt - 1 ≤ fuel by omega)
      rw [completed_of_counting] at hrest
      rw [if_pos hbusy, htick]
      exact hrest
    · have hbusy : ¬ busy (engineTick s) = true := by simp [htick]
      rw [if_neg hbusy, htick]
      rfl

/-- The line `POLL` reads what its loop ends with. -/
theorem runLine_poll {fuel : Nat} {s t : State} {v : Byte} (h : pollLoop fuel s = some (v, t)) :
    runLine fuel .poll s = some ([v], t) := by
  simp only [runLine, HostLine.wf, if_true, h, Option.map_some]

/-- Reads of bytes of `DOUT` on an idle engine change nothing but the port. -/
theorem drive_rdDout (ks : List (Fin 8)) {s : State} (hop : s.op = .idle) :
    ∃ v, drive (ks.map fun k => rdCycle (addrOf (.dout k))) s =
      some (ks.map fun k => s.dout[k.val], { s with rdata := v }) := by
  induction ks generalizing s with
  | nil => exact ⟨s.rdata, rfl⟩
  | cons k ks ih =>
    have hedge : clockEdge (rdCycle (addrOf (.dout k))) s = .next { s with rdata := s.dout[k.val] } := by
      rw [clockEdge_rdCycle, engineTick_idle hop, execRd, readReg_addrOf]
    obtain ⟨v, hdrive⟩ := ih (s := { s with rdata := s.dout[k.val] }) hop
    refine ⟨v, ?_⟩
    rw [List.map_cons, drive_cons hedge hdrive, isRead_rdCycle]
    rfl

/-- `RDBLK` on an idle engine reads `DOUT` and changes nothing but the port (R72, R141). -/
theorem runLine_rdblk (fuel : Nat) {s : State} (hop : s.op = .idle) :
    ∃ v, runLine fuel .rdblk s = some (s.dout.toList, { s with rdata := v }) := by
  obtain ⟨v, hdrive⟩ := drive_rdDout (List.finRange 8) hop
  have hbytes : (List.finRange 8).map (fun k => s.dout[k.val]) = s.dout.toList :=
    List.ext_getElem (by simp) (by simp)
  rw [hbytes] at hdrive
  exact ⟨v, by simpa only [runLine, HostLine.wf, if_true, lineCycles] using hdrive⟩

end Sys2Proof.Machine

/-! ### The calls
`new`, `encrypt` and `decrypt` as host programs, each from the line rules above and what the command leaves when it has
completed (spec/30_encoding.md R73, spec/60_exceptions.md R151, R177). -/

namespace Sys2Proof.Machine

/-- The line of a command on an idle engine: one cycle, which runs the command and returns no byte. -/
theorem drive_command {i : Instr} (hi : isRead (instrPorts i) = false) {s t : State} (hop : s.op = .idle)
    (h : exec i { s with rdata := 0 } = .next t) : drive [instrPorts i] s = some ([], t) := by
  refine drive_single hi ?_
  rw [clockEdge_instrPorts, engineTick_idle hop, h]

theorem runLine_keyexp (fuel : Nat) {s t : State} (hop : s.op = .idle)
    (h : exec .keyexp { s with rdata := 0 } = .next t) : runLine fuel .keyexp s = some ([], t) :=
  drive_command (i := .keyexp) rfl hop h

/-- ENC and DEC with `KEYVALID = 1` are accepted by their lines (R120, R121). -/
theorem runLine_enc (fuel : Nat) (s : State) (hop : s.op = .idle) (hkey : s.keyvalid = true) :
    runLine fuel .enc s =
      some ([], acceptTransform { s with rdata := 0 } (loadX s.din) .enc (latencyOf .enc)) :=
  drive_command (i := .enc) rfl hop (exec_enc_idle (s := { s with rdata := 0 }) hop hkey)

theorem runLine_dec (fuel : Nat) (s : State) (hop : s.op = .idle) (hkey : s.keyvalid = true) :
    runLine fuel .dec s =
      some ([], acceptTransform { s with rdata := 0 } (loadX s.din) .dec (latencyOf .dec)) :=
  drive_command (i := .dec) rfl hop (exec_dec_idle (s := { s with rdata := 0 }) hop hkey)

/-- KEYEXP with a length that is neither 10 nor 16 is refused with that length (R101, R151). -/
theorem exec_keyexp_refused {s : State} (hop : s.op = .idle) (h10 : s.keylen ≠ 10) (h16 : s.keylen ≠ 16) :
    exec .keyexp s = .next (raise s (.invalidKeySize s.keylen)) := by
  have hbusy : ¬ busy s = true := by simpa using hop
  rw [exec, execKeyexp, if_neg hbusy, if_neg h10, if_neg h16]

/-- What an accepted KEYEXP leaves when it has completed: the schedule of the key bytes it sampled (R107). -/
theorem completed_keyexp80 {s : State} {key : Vector Byte 10} (hkey : keyBytes80 s.key = key) (n : Nat) :
    completed (acceptKeyexp s (loadWk80 s.key) .keyexp80 n) =
      completeKeyexp { acceptKeyexp s (loadWk80 s.key) .keyexp80 n with cnt := 0 } (ks80 key) false := by
  rw [← hkey, ks80, ← wkLow_loadWk80]
  rfl

theorem completed_keyexp128 {s : State} {key : Vector Byte 16} (hkey : s.key = key) (n : Nat) :
    completed (acceptKeyexp s (loadWk128 s.key) .keyexp128 n) =
      completeKeyexp { acceptKeyexp s (loadWk128 s.key) .keyexp128 n with cnt := 0 } (ks128 key) true := by
  rw [← hkey]
  rfl

/-- The three lines of `new(key)` one after another. -/
theorem runLines_newCall {fuel : Nat} {key : List Byte} {s a b c : State}
    (hldkey : runLine fuel (.ldkey key) s = some ([], a)) (hkeyexp : runLine fuel .keyexp a = some ([], b))
    (hpoll : pollLoop fuel b = some (statusByte c, statusRead c)) :
    runLines fuel (newCall key) s = some ([statusByte (statusRead c)], statusRead c) :=
  runLines_cons hldkey (runLines_cons hkeyexp (runLines_cons (runLine_poll hpoll) rfl))

/-- The call succeeds on a polled `ERR` of 0 (R73). -/
theorem runNew_made {fuel : Nat} {key : List Byte} {s t : State}
    (h : runLines fuel (newCall key) s = some ([statusByte t], t)) (herr : t.err = 0) :
    runNew fuel key s = some (.made, t) := by
  rw [runNew_of_runLines h, statusErr_statusByte, if_pos herr]

/-- The call fails on a polled `ERR` of 1, with what `ERRLEN` holds (R73, R151). -/
theorem runNew_invalidKeySize {fuel : Nat} {key : List Byte} {s t : State}
    (h : runLines fuel (newCall key) s = some ([statusByte t], t)) (hop : t.op = .idle) (herr : t.err = 1) :
    runNew fuel key s = some (.invalidKeySize t.errlen, { t with rdata := t.errlen }) := by
  have hne : ¬ t.err = 0 := by rw [herr]; decide
  rw [runNew_of_runLines h, statusErr_statusByte, if_neg hne, if_pos herr, engineTick_idle hop]

/-- `new(key)` succeeds with the round keys `rk` of the size `keysize`, and keeps the last result (R73). -/
def NewMakes (fuel : Nat) (key : List Byte) (s : State) (keysize : Bool) (rk : RoundKeys) : Prop :=
  ∃ t, runNew fuel key s = some (.made, t) ∧
    runLines fuel (newCall key) s = some ([statusByte t], t) ∧ t.err = 0 ∧ t.op = .idle ∧
    t.keyvalid = true ∧ t.keysize = keysize ∧ t.rk = rk ∧ t.dout = s.dout ∧ t.dvalid = s.dvalid

/-- Where `LDKEY` leaves a state in which KEYEXP is accepted, `new` makes what that KEYEXP completes to. -/
theorem newMakes_of_accepted {fuel : Nat} {key : List Byte} {s a : State} {w : WorkKey} {o : Op} {rk : RoundKeys}
    {keysize : Bool} (hop : s.op = .idle) (hldkey : runLine fuel (.ldkey key) s = some ([], a)) (hbuf : BuffersOnly s a)
    (ho : o ≠ .idle) (hfuel : latencyOf o ≤ fuel)
    (hexec : exec .keyexp { a with rdata := 0 } = .next (acceptKeyexp { a with rdata := 0 } w o (latencyOf o)))
    (hdone : completed (acceptKeyexp { a with rdata := 0 } w o (latencyOf o)) =
      completeKeyexp { acceptKeyexp { a with rdata := 0 } w o (latencyOf o) with cnt := 0 } rk keysize) :
    NewMakes fuel key s keysize rk := by
  have hidle : a.op = .idle := by rw [hbuf, hop]
  have hpoll := pollLoop_busy (s := acceptKeyexp { a with rdata := 0 } w o (latencyOf o))
    ((latencyOf_pos ho).trans_le hfuel) ho hfuel
  rw [hdone] at hpoll
  have hlines := runLines_newCall hldkey (runLine_keyexp fuel hidle hexec) hpoll
  refine ⟨_, runNew_made hlines rfl, hlines, rfl, rfl, rfl, rfl, rfl, ?_, ?_⟩
  · show a.dout = s.dout
    rw [hbuf]
  · show a.dvalid = s.dvalid
    rw [hbuf]

/-- Settles O57: `LDKEY` leaves the key and its length, on which KEYEXP is accepted, and the POLL waits for it. -/
theorem newCallMakesTheInstance : Obligations.NewCallMakesTheInstance := by
  intro s fuel hop
  refine ⟨fun key hfuel => ?_, fun key hfuel => ?_⟩
  · obtain ⟨a, hldkey, hbuf, hlen, hbytes⟩ := runLine_ldkey fuel hop (bytes := key.toList) (by simp)
    have hidle : a.op = .idle := by rw [hbuf, hop]
    have hkey : keyBytes80 a.key = key := by
      ext1 k hk
      rw [keyBytes80, Vector.getElem_ofFn, hbytes k (by simpa using hk) (by omega), Vector.getElem_toList]
    rw [Vector.length_toList] at hlen
    exact newMakes_of_accepted hop hldkey hbuf (by decide) hfuel
      (exec_keyexp80_idle (s := { a with rdata := 0 }) hidle hlen)
      (completed_keyexp80 (s := { a with rdata := 0 }) hkey _)
  · obtain ⟨a, hldkey, hbuf, hlen, hbytes⟩ := runLine_ldkey fuel hop (bytes := key.toList) (by simp)
    have hidle : a.op = .idle := by rw [hbuf, hop]
    have hkey : a.key = key := by
      ext1 k hk
      rw [hbytes k (by simpa using hk) hk, Vector.getElem_toList]
    rw [Vector.length_toList] at hlen
    exact newMakes_of_accepted hop hldkey hbuf (by decide) hfuel
      (exec_keyexp128_idle (s := { a with rdata := 0 }) hidle hlen)
      (completed_keyexp128 (s := { a with rdata := 0 }) hkey _)

/-- Settles O58: KEYEXP is refused on the length `LDKEY` left, which `ERRLEN` then holds; nothing else has changed. -/
theorem newCallWithBadLengthFails : Obligations.NewCallWithBadLengthFails := by
  intro s fuel key hop hfuel hlen h10 h16
  obtain ⟨a, hldkey, hbuf, hkeylen, -⟩ := runLine_ldkey fuel hop hlen
  have hidle : a.op = .idle := by rw [hbuf, hop]
  have hnat : a.keylen.toNat = key.length := by rw [hkeylen, BitVec.toNat_ofNat, Nat.mod_eq_of_lt (by omega)]
  have hne (m : Byte) (hm : key.length ≠ m.toNat) : a.keylen ≠ m := fun h => hm (by rw [← hnat, h])
  have hexec : exec .keyexp { a with rdata := 0 } = .next (raise { a with rdata := 0 } (.invalidKeySize a.keylen)) :=
    exec_keyexp_refused hidle (hne 10 h10) (hne 16 h16)
  have hlines := runLines_newCall hldkey (runLine_keyexp fuel hidle hexec) (pollLoop_idle hfuel hidle)
  refine ⟨_, hlines, rfl, hnat, runNew_invalidKeySize hlines hidle rfl, hidle, ?_⟩
  show a.keyvalid = s.keyvalid ∧ a.keysize = s.keysize ∧ a.rk = s.rk ∧ a.dout = s.dout ∧ a.dvalid = s.dvalid
  rw [hbuf]
  exact ⟨rfl, rfl, rfl, rfl, rfl⟩

/-- A completion does not write `ERR` (R154). -/
theorem complete_err (s : State) : (complete s).err = s.err := by
  rcases complete_cases s with ⟨-, hc⟩ | ⟨-, hc⟩ | ⟨-, hc⟩ | ⟨-, hc⟩ | ⟨-, hc⟩ <;> simp [hc]

/-- The completion of a transform leaves `RK` (R120, R121). -/
theorem complete_rk_of_isTransform {s : State} (h : s.op.isTransform = true) : (complete s).rk = s.rk := by
  rcases complete_cases s with ⟨hop, -⟩ | ⟨hop, -⟩ | ⟨hop, -⟩ | ⟨-, hc⟩ | ⟨-, hc⟩
  · simp [hop, Op.isTransform] at h
  · simp [hop, Op.isTransform] at h
  · simp [hop, Op.isTransform] at h
  · simp [hc]
  · simp [hc]

/-- The command in flight run to its end: the same facts about `completed` (R178). -/
theorem completed_err (s : State) : (completed s).err = s.err := complete_err _

theorem completed_keyvalid (s : State) : (completed s).keyvalid = (s.keyvalid || s.op.isKeyexp) := complete_keyvalid _

theorem completed_rk_of_isTransform {s : State} (h : s.op.isTransform = true) : (completed s).rk = s.rk :=
  complete_rk_of_isTransform (s := { s with cnt := 0 }) h

theorem completed_enc {s : State} {b : Block} (hop : s.op = .enc) (hx : s.x = unpack b) :
    (completed s).dout = encrypt s.rk b := (complete_enc (s := { s with cnt := 0 }) hop hx).1

theorem completed_dec {s : State} {b : Block} (hop : s.op = .dec) (hx : s.x = unpack b) :
    (completed s).dout = decrypt s.rk b := (complete_dec (s := { s with cnt := 0 }) hop hx).1

/-- `POLL` and `RDBLK` with a command in flight: the `STATUS` and the `DOUT` of the engine when it has completed. -/
theorem runLines_poll_rdblk {fuel : Nat} {s : State} (hfuel : 0 < fuel) (hop : s.op ≠ .idle) (hcnt : s.cnt ≤ fuel) :
    ∃ t v, runLines fuel [.poll, .rdblk] s = some (statusByte t :: t.dout.toList, t) ∧
      t = { completed s with rdata := v } := by
  obtain ⟨v, hrdblk⟩ := runLine_rdblk fuel (s := statusRead (completed s)) (completed_op s)
  have hlines := runLines_cons (runLine_poll (pollLoop_busy hfuel hop hcnt)) (runLines_cons (ls := []) hrdblk rfl)
  rw [List.append_nil] at hlines
  exact ⟨{ completed s with rdata := v }, v, hlines, rfl⟩

section Transform
/-! A transform `o` that completes to the block `f` gives (R120, R121). -/

variable {o : Op} {f : RoundKeys → Block → Block} (ho : o.isTransform = true)
  (hdone : ∀ {s : State} {b : Block}, s.op = o → s.x = unpack b → (completed s).dout = f s.rk b)

include ho hdone

/-- What an accepted transform leaves when it has completed. -/
theorem completed_acceptTransform (s : State) (b : Block) (n : Nat) :
    (completed (acceptTransform s (unpack b) o n)).dout = f s.rk b ∧
    (completed (acceptTransform s (unpack b) o n)).err = 0 ∧
    (completed (acceptTransform s (unpack b) o n)).rk = s.rk ∧
    (completed (acceptTransform s (unpack b) o n)).keyvalid = s.keyvalid := by
  refine ⟨?_, ?_, ?_, ?_⟩
  · rw [hdone (acceptTransform_op s _ o n) (acceptTransform_x s _ o n), acceptTransform_rk]
  · rw [completed_err, acceptTransform_err, codeOk]
  · rw [completed_rk_of_isTransform (by rw [acceptTransform_op, ho]), acceptTransform_rk]
  · have hkeyexp : o.isKeyexp = false := (Op.isKeyexp_of_isTransform ho).1
    rw [completed_keyvalid, acceptTransform_op, acceptTransform_keyvalid, hkeyexp, Bool.or_false]

/-- `encrypt` and `decrypt` in one: a call whose command line `l` starts the transform returns its block and keeps the
round keys (R73). -/
theorem runLines_transformCall {fuel : Nat} {l : HostLine} (hfuel : latencyOf o ≤ fuel)
    (hline : ∀ a : State, a.op = .idle → a.keyvalid = true →
      runLine fuel l a = some ([], acceptTransform { a with rdata := 0 } (loadX a.din) o (latencyOf o)))
    {s : State} (hop : s.op = .idle) (hkey : s.keyvalid = true) (b : Block) :
    ∃ t, runLines fuel [.ldblk b.toList, l, .poll, .rdblk] s = some (statusByte t :: (f s.rk b).toList, t) ∧
      t.err = 0 ∧ t.rk = s.rk ∧ t.keyvalid = true ∧ t.op = .idle := by
  obtain ⟨a, hldblk, hbuf, hdin⟩ := runLine_ldblk fuel hop b
  obtain ⟨hidle, hvalid, hrk⟩ : a.op = .idle ∧ a.keyvalid = true ∧ a.rk = s.rk := by
    rw [hbuf]
    exact ⟨hop, hkey, rfl⟩
  have hbusy : o ≠ .idle := (Op.isKeyexp_of_isTransform ho).2
  have haccept := hline a hidle hvalid
  have hx : loadX a.din = unpack b := congrArg unpack hdin
  rw [hx] at haccept
  obtain ⟨t, v, hrest, ht⟩ := runLines_poll_rdblk
    (s := acceptTransform { a with rdata := 0 } (unpack b) o (latencyOf o)) ((latencyOf_pos hbusy).trans_le hfuel)
    hbusy hfuel
  obtain ⟨hdout, herr, hrk', hvalid'⟩ := completed_acceptTransform ho hdone { a with rdata := 0 } b (latencyOf o)
  have hlines := runLines_cons hldblk (runLines_cons haccept hrest)
  have htdout : t.dout = f s.rk b := by rw [ht, ← hrk]; exact hdout
  rw [htdout] at hlines
  refine ⟨t, hlines, ?_, ?_, ?_, ?_⟩ <;> rw [ht]
  · exact herr
  · exact hrk'.trans hrk
  · exact hvalid'.trans hvalid
  · exact completed_op _

end Transform

/-- Settles O59: the two calls one after another, on one table of round keys, whose transforms undo each other. -/
theorem encryptThenDecryptCallsReturnTheBlock : Obligations.EncryptThenDecryptCallsReturnTheBlock := by
  intro s b fuel hop hkey henc hdec
  obtain ⟨t, hencrypt, hterr, htrk, htkey, htop⟩ :=
    runLines_transformCall rfl completed_enc henc (runLine_enc fuel) hop hkey b
  obtain ⟨u, hdecrypt, huerr, hurk, hukey, huop⟩ :=
    runLines_transformCall rfl completed_dec hdec (runLine_dec fuel) htop htkey (encrypt s.rk b)
  rw [htrk, decrypt_encrypt] at hdecrypt
  exact ⟨t, u, hencrypt, hdecrypt, hterr, huerr, hurk.trans htrk, hukey, huop⟩

end Sys2Proof.Machine

/-! ### Bytes and nibbles
`Unpack` and `Pack` as arithmetic on bytes (spec/40_constant_tables.md R84, R85). -/

namespace Sys2Proof.Machine

/-- The two nibbles of a byte as quotient and remainder (R84). -/
theorem toNat_hiNibble (b : Byte) : (hiNibble b).toNat = b.toNat / 16 := by
  rw [hiNibble, BitVec.extractLsb'_toNat, Nat.shiftRight_eq_div_pow]
  omega

theorem toNat_loNibble (b : Byte) : (loNibble b).toNat = b.toNat % 16 := by
  rw [loNibble, BitVec.extractLsb'_toNat, Nat.shiftRight_zero]

/-- Two nibbles put together, as a number (R85). -/
theorem toNat_nibble_append (a b : Nibble) : (a ++ b).toNat = a.toNat * 16 + b.toNat := by
  rw [BitVec.toNat_append, ← Nat.shiftLeft_add_eq_or_of_lt b.isLt, Nat.shiftLeft_eq]

/-- Settles O48: positions `2k` and `2k + 1` both lie in byte `k`, and hold its two nibbles. -/
theorem unpackByBytes : Obligations.UnpackByBytes := by
  refine ⟨fun n b k hk => ?_, by decide⟩
  have heven : 2 * k / 2 = k := by omega
  have hodd : (2 * k + 1) / 2 = k := by omega
  constructor
  · rw [getElem_unpack, if_pos (by omega), toNat_hiNibble]
    simp only [heven]
  · rw [getElem_unpack, if_neg (by omega), toNat_loNibble]
    simp only [hodd]

/-- Settles O49: a byte of `Pack` is two nibbles put together, and both round trips are known. -/
theorem packAndUnpackAreInverse : Obligations.PackAndUnpackAreInverse := by
  refine ⟨fun x k hk => ?_, pack_unpack, unpack_pack, by decide⟩
  rw [getElem_pack x k hk, toNat_nibble_append]

end Sys2Proof.Machine

/-! ### The tables and the permutation
The S-box and the shuffles as permutations, and `Permute` in gather form (spec/40_constant_tables.md R80 to R82,
R87). -/

namespace Sys2Proof.Machine

/-- No value of the S-box occurs twice (R80). -/
theorem sbox_injective : Function.Injective sbox := by
  unfold Function.Injective
  decide

/-- So every value occurs: there are as many values as indices (R80). -/
theorem sbox_surjective : Function.Surjective sbox :=
  have : Finite Nibble := Finite.of_equiv _ BitVec.equivFin.symm.toEquiv
  Finite.surjective_of_injective sbox_injective

/-- Every nibble moves between an even and an odd position (R81). -/
theorem shufRom_changes_parity : ∀ h : Fin 16, (shufRom[h.val].val + h.val) % 2 = 1 := by decide

/-- Settles O50: an injective S-box on finitely many nibbles, and the shuffle tables index by index. -/
theorem tablesArePermutations : Obligations.TablesArePermutations :=
  ⟨sbox_surjective, fun _ _ h => sbox_injective h, fun h => ⟨shufinv_shuf h, shuf_shufinv h⟩, shufRom_changes_parity⟩

/-- A table is injective when another one undoes it. -/
theorem injective_of_undone {t u : Vector (Fin 16) 16} (hut : ∀ h : Fin 16, u[(t[h.val]).val] = h) :
    Function.Injective fun h : Fin 16 => t[h.val] :=
  Function.LeftInverse.injective (g := fun h : Fin 16 => u[h.val]) hut

/-- `Permute` in gather form: position `d` takes its nibble from where the table that undoes `t` says (R87). -/
theorem getElem_permute_gather {t u : Vector (Fin 16) 16} (hut : ∀ h : Fin 16, u[(t[h.val]).val] = h)
    (htu : ∀ h : Fin 16, t[(u[h.val]).val] = h) (x : Nibbles16) (d : Fin 16) :
    (permute t x)[d.val] = x[(u[d.val]).val] :=
  calc (permute t x)[d.val] = (permute t x)[(t[(u[d.val]).val]).val] := by simp only [htu d]
    _ = x[(u[d.val]).val] := getElem_permute (injective_of_undone hut) x u[d.val]

/-- Settles O47: each table is undone by the other, which gives the scatter form, the gather form and the round
trips. -/
theorem permuteByPositions : Obligations.PermuteByPositions := by
  refine ⟨fun x h => ⟨?_, ?_⟩, fun x d => ⟨?_, ?_⟩, fun x => ⟨?_, ?_⟩, by decide, by decide⟩
  · exact getElem_permute (injective_of_undone shufinv_shuf) x h
  · exact getElem_permute (injective_of_undone shuf_shufinv) x h
  · exact getElem_permute_gather shufinv_shuf shuf_shufinv x d
  · exact getElem_permute_gather shuf_shufinv shufinv_shuf x d
  · exact permute_permute shufinv_shuf shuf_shufinv x
  · exact permute_permute shuf_shufinv shufinv_shuf x

end Sys2Proof.Machine

/-! ### The lanes of the step
`FeistelStep` position by position, and its lanes computed one after another in any order (spec/40_constant_tables.md
R86, spec/42_block_transform.md R124). -/

namespace Sys2Proof.Machine

/-- The two positions of lane `j` after the step (R86). -/
theorem getElem_feistelStep_even (x : Nibbles16) (k : RoundKey) (j : Nat) (hj : j < 8) :
    (feistelStep x k)[2 * j] = x[2 * j] := by
  rw [getElem_feistelStep, if_pos (by omega)]

theorem getElem_feistelStep_odd (x : Nibbles16) (k : RoundKey) (j : Nat) (hj : j < 8) :
    (feistelStep x k)[2 * j + 1] = laneOut x k ⟨j, hj⟩ := by
  have hlane : (2 * j + 1) / 2 = j := by omega
  rw [getElem_feistelStep, if_neg (by omega)]
  simp only [hlane]

/-- A lane alone writes its odd position only (R86, R124). -/
theorem getElem_feistelLane_of_ne (k : RoundKey) (x : Nibbles16) (j : Fin 8) (i : Nat) (h : i < 16)
    (hne : i ≠ 2 * j.val + 1) : (feistelLane k x j)[i] = x[i] := by
  rw [getElem_feistelLane, if_neg hne.symm]

/-- Lanes are independent: what lane `j` computes does not change when another lane `g` has been computed (R86). -/
theorem laneOut_feistelLane (k : RoundKey) (x : Nibbles16) {g j : Fin 8} (hne : g ≠ j) :
    laneOut (feistelLane k x g) k j = laneOut x k j := by
  have hval : g.val ≠ j.val := fun h => hne (Fin.ext h)
  rw [laneOut, getElem_feistelLane_of_ne k x g (2 * j.val) (by omega) (by omega),
    getElem_feistelLane_of_ne k x g (2 * j.val + 1) (by omega) (by omega), laneOut]

theorem feistelSerial_cons (j : Fin 8) (order : List (Fin 8)) (x : Nibbles16) (k : RoundKey) :
    feistelSerial (j :: order) x k = feistelSerial order (feistelLane k x j) k := rfl

/-- No lane writes an even position. -/
theorem getElem_feistelSerial_even (order : List (Fin 8)) (x : Nibbles16) (k : RoundKey) (j : Nat) (hj : j < 8) :
    (feistelSerial order x k)[2 * j] = x[2 * j] := by
  induction order generalizing x with
  | nil => rfl
  | cons g order ih => rw [feistelSerial_cons, ih, getElem_feistelLane_of_ne k x g _ _ (by omega)]

/-- Lanes that come once each: those of the list have been computed, from the block before all of them. -/
theorem getElem_feistelSerial_odd {order : List (Fin 8)} (honce : order.Nodup) (x : Nibbles16) (k : RoundKey)
    (j : Fin 8) :
    (feistelSerial order x k)[2 * j.val + 1] = if j ∈ order then laneOut x k j else x[2 * j.val + 1] := by
  induction order generalizing x with
  | nil => rfl
  | cons g order ih =>
    obtain ⟨hg, honce⟩ := List.nodup_cons.mp honce
    rw [feistelSerial_cons, ih honce]
    by_cases hgj : g = j
    · subst hgj
      simp [hg, getElem_feistelLane]
    · have hval : g.val ≠ j.val := fun h => hgj (Fin.ext h)
      rw [laneOut_feistelLane k x hgj, getElem_feistelLane_of_ne k x g _ _ (by omega)]
      simp [Ne.symm hgj]

/-- The lanes one after another, in any order in which each comes once, are the step (R86, R124). -/
theorem feistelSerial_eq_feistelStep {order : List (Fin 8)} (hperm : order.Perm (List.finRange 8)) (x : Nibbles16)
    (k : RoundKey) : feistelSerial order x k = feistelStep x k := by
  have honce : order.Nodup := hperm.nodup_iff.mpr (List.nodup_finRange 8)
  have hall (j : Fin 8) : j ∈ order := hperm.mem_iff.mpr (List.mem_finRange j)
  ext1 i hi
  obtain ⟨j, rfl | rfl⟩ := Nat.even_or_odd' i
  · rw [getElem_feistelSerial_even order x k j (by omega), getElem_feistelStep_even x k j (by omega)]
  · have hj : j < 8 := by omega
    rw [getElem_feistelSerial_odd honce x k ⟨j, hj⟩, if_pos (hall _), getElem_feistelStep_odd x k j hj]

/-- Settles O45: the two positions of a lane after the step, the involution, and the lanes one by one. -/
theorem feistelStepByLanes : Obligations.FeistelStepByLanes := by
  refine ⟨fun x k j hj => ⟨?_, ?_⟩, fun x k => ?_, fun x k => ?_, fun order x k hperm => ?_, by decide⟩
  · exact getElem_feistelStep_even x k j hj
  · rw [getElem_feistelStep_odd x k j hj, laneOut]
  · exact feistelStep_feistelStep k x
  · exact getElem_feistelLane_of_ne k x
  · exact feistelSerial_eq_feistelStep hperm x k

end Sys2Proof.Machine

/-! ### The rotation and the rounds of the key schedules
The copy loop as the rotation, and one update of each register position by position (spec/41_key_expansion.md R103,
R104, R106). -/

namespace Sys2Proof.Machine

/-- One turn of the copy loop: position `q` takes what stands at `q + 4` (R106). -/
def copyNibble {n : Nat} (v : Vector Nibble n) (q : Nat) : Vector Nibble n :=
  if h : q + 4 < n then v.set q v[q + 4] else v

theorem rotateLoop_eq {n : Nat} (hn : 20 ≤ n) (w : Vector Nibble n) :
    rotateLoop hn w =
      ((((((List.range (n - 4)).foldl copyNibble w).set (n - 4) w[1]).set (n - 3) w[2]).set (n - 2) w[3]).set
        (n - 1) w[0]) := rfl

/-- After `k` turns in ascending order the positions below `k` are copied and the rest still hold the old register, so
no turn reads a position that an earlier one has written (R106). -/
theorem getElem_foldl_copyNibble {n : Nat} (w : Vector Nibble n) (k : Nat) (hk : k + 4 ≤ n) (p : Nat) (hp : p < n) :
    ((List.range k).foldl copyNibble w)[p] = if h : p < k then w[p + 4] else w[p] := by
  induction k generalizing p with
  | zero => rfl
  | succ k ih =>
    have hread : ((List.range k).foldl copyNibble w)[k + 4] = w[k + 4] := by
      rw [ih (by omega), dif_neg (by omega)]
    rw [List.range_succ, List.foldl_append, List.foldl_cons, List.foldl_nil, copyNibble, dif_pos (by omega), hread,
      Vector.getElem_set]
    by_cases hpk : k = p
    · subst hpk
      rw [if_pos rfl, dif_pos (Nat.lt_succ_self k)]
    · have hlt : p < k + 1 ↔ p < k := by omega
      simp only [if_neg hpk, ih (by omega), hlt]

section Rotation
/-! The rotation, for every register length of at least 20: the shift, and the four positions it fills (R106). -/

variable {n : Nat} (hn : 20 ≤ n) (w : Vector Nibble n) {p : Nat}

theorem getElem_rotate_shift (h : p + 4 < n) : (rotate hn w)[p] = w[p + 4] := by
  rw [getElem_rotate, dif_pos h]

theorem getElem_rotate_last4 (h : p + 4 = n) : (rotate hn w)[p] = w[1] := by
  rw [getElem_rotate, dif_neg (by omega), if_pos h]

theorem getElem_rotate_last3 (h : p + 3 = n) : (rotate hn w)[p] = w[2] := by
  rw [getElem_rotate, dif_neg (by omega), if_neg (by omega), if_pos h]

theorem getElem_rotate_last2 (h : p + 2 = n) : (rotate hn w)[p] = w[3] := by
  rw [getElem_rotate, dif_neg (by omega), if_neg (by omega), if_neg (by omega), if_pos h]

theorem getElem_rotate_last1 (h : p + 1 = n) : (rotate hn w)[p] = w[0] := by
  rw [getElem_rotate, dif_neg (by omega), if_neg (by omega), if_neg (by omega), if_neg (by omega)]

/-- The copy loop and the four writes after it are the rotation (R106). -/
theorem rotateLoop_eq_rotate : rotateLoop hn w = rotate hn w := by
  ext1 p hp
  rw [rotateLoop_eq]
  obtain h | h | h | h | h : p + 4 < n ∨ p + 4 = n ∨ p + 3 = n ∨ p + 2 = n ∨ p + 1 = n := by omega
  · rw [Vector.getElem_set_ne _ _ (by omega), Vector.getElem_set_ne _ _ (by omega),
      Vector.getElem_set_ne _ _ (by omega), Vector.getElem_set_ne _ _ (by omega),
      getElem_foldl_copyNibble w _ (by omega), dif_pos (by omega),
      getElem_rotate_shift hn w h]
  · obtain rfl : p = n - 4 := by omega
    rw [Vector.getElem_set_ne _ _ (by omega), Vector.getElem_set_ne _ _ (by omega),
      Vector.getElem_set_ne _ _ (by omega), Vector.getElem_set_self, getElem_rotate_last4 hn w h]
  · obtain rfl : p = n - 3 := by omega
    rw [Vector.getElem_set_ne _ _ (by omega), Vector.getElem_set_ne _ _ (by omega), Vector.getElem_set_self,
      getElem_rotate_last3 hn w h]
  · obtain rfl : p = n - 2 := by omega
    rw [Vector.getElem_set_ne _ _ (by omega), Vector.getElem_set_self, getElem_rotate_last2 hn w h]
  · obtain rfl : p = n - 1 := by omega
    rw [Vector.getElem_set_self, getElem_rotate_last1 hn w h]

end Rotation

/-- Settles O52: the loop by its invariant, the rotation position by position. -/
theorem rotationLoopIsTheRotation : Obligations.RotationLoopIsTheRotation := fun _ hn w =>
  ⟨rotateLoop_eq_rotate hn w, fun _ h => getElem_rotate_shift hn w h, getElem_rotate_last4 hn w (by omega),
    getElem_rotate_last3 hn w (by omega), getElem_rotate_last2 hn w (by omega), getElem_rotate_last1 hn w (by omega)⟩

/-- A position that one update of the 80-bit register fills by the shift: position `p + 4` after mix and injection
(R103). -/
theorem getElem_update80_shift (w : Vector Nibble 20) (c : BitVec 6) (p : Nat) (hp : p + 4 < 20) :
    (update80 w c)[p] =
      if p = 15 then w[19] ^^^ rconLo c else if p = 3 then w[7] ^^^ rconHi c
      else if p = 0 then w[4] ^^^ sbox w[16] else w[p + 4] := by
  rw [update80, getElem_rotate_shift _ _ hp, getElem_inject]
  simp [getElem_mix80]

/-- The same of the 128-bit register, with the third mix (R104). -/
theorem getElem_update128_shift (w : WorkKey) (c : BitVec 6) (p : Nat) (hp : p + 4 < 32) :
    (update128 w c)[p] =
      if p = 15 then w[19] ^^^ rconLo c else if p = 3 then w[7] ^^^ rconHi c
      else if p = 19 then w[23] ^^^ sbox w[30] else if p = 0 then w[4] ^^^ sbox w[16] else w[p + 4] := by
  rw [update128, getElem_rotate_shift _ _ hp, getElem_inject]
  simp [getElem_mix128]

/-- The last four positions are filled from the first four, of which only position 1 has been mixed (R103, R106). -/
theorem getElem_update80_last (w : Vector Nibble 20) (c : BitVec 6) :
    (update80 w c)[16] = w[1] ^^^ sbox w[0] ∧ (update80 w c)[17] = w[2] ∧ (update80 w c)[18] = w[3] ∧
    (update80 w c)[19] = w[0] := by
  refine ⟨?_, ?_, ?_, ?_⟩ <;> simp [update80, getElem_rotate, getElem_inject, getElem_mix80]

theorem getElem_update128_last (w : WorkKey) (c : BitVec 6) :
    (update128 w c)[28] = w[1] ^^^ sbox w[0] ∧ (update128 w c)[29] = w[2] ∧ (update128 w c)[30] = w[3] ∧
    (update128 w c)[31] = w[0] := by
  refine ⟨?_, ?_, ?_, ?_⟩ <;> simp [update128, getElem_rotate, getElem_inject, getElem_mix128]

/-- Settles O53: `W i` is the register after `i` updates; each round is one more update, each row its tap. -/
theorem keySchedule80ByRounds : Obligations.KeySchedule80ByRounds := by
  intro key
  refine ⟨fun i => afterUpdates update80 i (unpack key), afterUpdates_zero _ _, fun i hi => ?_,
    fun i hi => getElem_schedule tap80 update80 (unpack key) i hi⟩
  simp only [afterUpdates_succ update80 (unpack key) i hi]
  refine ⟨fun p hp h0 h3 h15 => ?_, getElem_update80_shift _ _ 0 (by decide), getElem_update80_shift _ _ 3 (by decide),
    getElem_update80_shift _ _ 15 (by decide), getElem_update80_last _ _⟩
  rw [getElem_update80_shift _ _ p (by omega), if_neg h15, if_neg h3, if_neg h0]

/-- Settles O54: the same of the 128-bit register. -/
theorem keySchedule128ByRounds : Obligations.KeySchedule128ByRounds := by
  intro key
  refine ⟨fun i => afterUpdates update128 i (unpack key), afterUpdates_zero _ _, fun i hi => ?_,
    fun i hi => getElem_schedule tap128 update128 (unpack key) i hi⟩
  simp only [afterUpdates_succ update128 (unpack key) i hi]
  refine ⟨fun p hp h0 h3 h15 h19 => ?_, getElem_update128_shift _ _ 0 (by decide),
    getElem_update128_shift _ _ 3 (by decide), getElem_update128_shift _ _ 15 (by decide),
    getElem_update128_shift _ _ 19 (by decide), getElem_update128_last _ _⟩
  rw [getElem_update128_shift _ _ p (by omega), if_neg h15, if_neg h3, if_neg h19, if_neg h0]

end Sys2Proof.Machine

/-! ### KEYEXP accepted, refused and completed
The four commands on the state they find: KEYEXP with its key and its only check, the frame of all four, and the tick
that completes KEYEXP (spec/41_key_expansion.md R100 to R102, R107, R108; spec/60_exceptions.md R156). -/

namespace Sys2Proof.Machine

/-- The nibbles an 80-bit KEYEXP loads from byte `k` of the key (R100, R84). -/
theorem loadWk80_byte (key : Vector Byte 16) (k : Nat) (hk : k < 10) :
    (loadWk80 key)[2 * k].toNat = key[k].toNat / 16 ∧ (loadWk80 key)[2 * k + 1].toNat = key[k].toNat % 16 := by
  have h := unpackByBytes.1 10 (keyBytes80 key) k hk
  have hhi : 2 * k < 20 := by omega
  have hlo : 2 * k + 1 < 20 := by omega
  simpa [loadWk80, hhi, hlo, keyBytes80] using h

/-- The rest of the register is zero (R100). -/
theorem loadWk80_rest (key : Vector Byte 16) (i : Nat) (hi : i < 32) (h : 20 ≤ i) : (loadWk80 key)[i] = 0 := by
  have hnot : ¬ i < 20 := by omega
  simp [loadWk80, hnot]

/-- Settles O21: the state of each acceptance, and the nibbles it has loaded. -/
theorem keyexpIsAccepted : Obligations.KeyexpIsAccepted := by
  intro s hop
  refine ⟨fun hlen => ⟨_, exec_keyexp80_idle hop hlen, ?_, ?_, rfl⟩,
    fun hlen => ⟨_, exec_keyexp128_idle hop hlen, ?_, rfl⟩⟩
  · exact loadWk80_byte s.key
  · exact loadWk80_rest s.key
  · exact unpackByBytes.1 16 s.key

/-- Settles O22: the refusal by length, and the two acceptances, neither of which asks anything of the key. -/
theorem keyexpValidatesTheLengthOnly : Obligations.KeyexpValidatesTheLengthOnly := by
  intro s hop
  refine ⟨fun h10 h16 => exec_keyexp_refused hop h10 h16, ?_⟩
  rintro (h10 | h16)
  · exact ⟨_, exec_keyexp80_idle hop h10, rfl, by simp⟩
  · exact ⟨_, exec_keyexp128_idle hop h16, rfl, by simp⟩

/-- Settles O28: with one cycle left the tick completes, on the schedule of the key that was loaded. -/
theorem tickCompletesKeyexp : Obligations.TickCompletesKeyexp := by
  intro s key hcnt
  refine ⟨fun hop hwk => ?_, fun hop hwk => ?_⟩
  · rw [engineTick_completes (by simp [hop]) hcnt.le, complete, hop]
    simp only [hwk, wkLow_loadWk80]
    rfl
  · rw [engineTick_completes (by simp [hop]) hcnt.le, complete, hop]
    simp only [hwk]
    rfl

/-- The states NOP, KEYEXP, ENC and DEC can answer: an error taken, which records a length for KEYEXP only, or what
the command does when accepted (R142, R100, R120, R121, R156). -/
theorem exec_command_eq_next_cases {i : Instr} {s t : State} (hi : i = .nop ∨ i = .keyexp ∨ i = .enc ∨ i = .dec)
    (h : exec i s = .next t) :
    (∃ e, t = raise s e ∧ (i = .keyexp ∨ t.errlen = s.errlen)) ∨
    (i = .nop ∧ t = clearErr s) ∨
    (i = .keyexp ∧ ∃ w o n, t = acceptKeyexp s w o n) ∨
    ((i = .enc ∨ i = .dec) ∧ ∃ x o n, t = acceptTransform s x o n) := by
  rcases hi with rfl | rfl | rfl | rfl
  · simp only [exec, execNop] at h
    split at h <;> cases h
    · exact .inl ⟨_, rfl, .inr rfl⟩
    · exact .inr (.inl ⟨rfl, rfl⟩)
  · simp only [exec, execKeyexp] at h
    split_ifs at h <;> cases h
    · exact .inl ⟨_, rfl, .inl rfl⟩
    · exact .inr (.inr (.inl ⟨rfl, _, _, _, rfl⟩))
    · exact .inr (.inr (.inl ⟨rfl, _, _, _, rfl⟩))
    · exact .inl ⟨_, rfl, .inl rfl⟩
  · simp only [exec, execEnc] at h
    split_ifs at h <;> cases h
    · exact .inl ⟨_, rfl, .inr rfl⟩
    · exact .inr (.inr (.inr ⟨.inl rfl, _, _, _, rfl⟩))
    · exact .inl ⟨_, rfl, .inr rfl⟩
  · simp only [exec, execDec] at h
    split_ifs at h <;> cases h
    · exact .inl ⟨_, rfl, .inr rfl⟩
    · exact .inr (.inr (.inr ⟨.inr rfl, _, _, _, rfl⟩))
    · exact .inl ⟨_, rfl, .inr rfl⟩

/-- What no command writes: the round keys, the host buffers, the result and its flag, the size, the ports and the
coming cycles. -/
def CommandKeeps (s t : State) : Prop :=
  t.rk = s.rk ∧ t.key = s.key ∧ t.keylen = s.keylen ∧ t.din = s.din ∧ t.dout = s.dout ∧ t.keysize = s.keysize ∧
    t.dvalid = s.dvalid ∧ t.rdata = s.rdata ∧ t.inputs = s.inputs ∧ t.freeCtr = s.freeCtr

theorem commandKeeps_raise (s : State) (e : CmdError) : CommandKeeps s (raise s e) := by simp [CommandKeeps]

theorem commandKeeps_clearErr (s : State) : CommandKeeps s (clearErr s) := by simp [CommandKeeps]

theorem commandKeeps_acceptKeyexp (s : State) (w : WorkKey) (o : Op) (n : Nat) :
    CommandKeeps s (acceptKeyexp s w o n) := by simp [CommandKeeps]

theorem commandKeeps_acceptTransform (s : State) (x : Nibbles16) (o : Op) (n : Nat) :
    CommandKeeps s (acceptTransform s x o n) := by simp [CommandKeeps]

/-- So a byte written to `CMD` keeps them too, whatever it does (R143). -/
theorem commandKeeps_command {s t : State} {v : Byte} (h : command s v = .next t) : CommandKeeps s t := by
  rcases command_eq_next_cases h with ⟨e, rfl⟩ | rfl | ⟨-, rfl | rfl⟩ | ⟨-, -, o, -, rfl⟩
  · exact commandKeeps_raise s e
  · exact commandKeeps_clearErr s
  · exact commandKeeps_acceptKeyexp s _ _ _
  · exact commandKeeps_acceptKeyexp s _ _ _
  · exact commandKeeps_acceptTransform s _ _ _

/-- Every register but `STATUS` and `ERRLEN` reads what no command writes (R41). -/
theorem CommandKeeps.readReg_eq {s t : State} (h : CommandKeeps s t) {a : Addr} (hstatus : a ≠ 0x21)
    (herrlen : a = 0x23 → t.errlen = s.errlen) : readReg t a = readReg s a := by
  obtain ⟨-, hkey, hkeylen, hdin, hdout, -⟩ := h
  obtain ⟨r, rfl⟩ : ∃ r, a = addrOf r := ⟨regAt a, (addrOf_regAt a).symm⟩
  rw [readReg_addrOf, readReg_addrOf]
  cases r with
  | key k => exact congrArg (·[k.val]) hkey
  | din k => exact congrArg (·[k.val]) hdin
  | dout k => exact congrArg (·[k.val]) hdout
  | status => exact absurd rfl hstatus
  | keylen => exact hkeylen
  | errlen => exact herrlen rfl
  | cmd | blksize | reserved k => rfl

/-- A refusal writes `ERR` and `ERRLEN` (R156). -/
theorem raise_eq_update (s : State) (e : CmdError) :
    raise s e = { s with err := (raise s e).err, errlen := (raise s e).errlen } := by
  cases e <;> rfl

/-- Settles O26: in each of the four outcomes of a command, what `CommandKeeps` names is kept, and the rest is read off
the outcome. Only a refusal leaves a code other than 0. -/
theorem commandFrame : Obligations.CommandFrame := by
  intro i s t hi hexec
  rcases exec_command_eq_next_cases hi hexec with ⟨e, rfl, herrlen⟩ | ⟨rfl, rfl⟩ | ⟨rfl, w, o, n, rfl⟩ |
    ⟨hcmd, x, o, n, rfl⟩
  · have hkeeps := commandKeeps_raise s e
    have hlen (hk : i ≠ .keyexp) : (raise s e).errlen = s.errlen := herrlen.resolve_left hk
    refine ⟨hkeeps, fun a ha hne => hkeeps.readReg_eq ha fun h23 => hlen fun hk => hne ⟨hk, h23⟩, ?_, ?_, ?_,
      fun _ => raise_eq_update s e⟩
    · rintro rfl
      have hs := raise_eq_update s e
      rwa [hlen (by decide)] at hs
    · exact fun _ => raise_x s e
    · rintro (rfl | rfl) <;> exact ⟨raise_wk s e, raise_keyvalid s e, hlen (by decide)⟩
  · have hkeeps := commandKeeps_clearErr s
    exact ⟨hkeeps, fun a ha _ => hkeeps.readReg_eq ha fun _ => rfl, fun _ => rfl, fun _ => rfl,
      fun _ => ⟨rfl, rfl, rfl⟩, fun herr => absurd rfl herr⟩
  · have hkeeps := commandKeeps_acceptKeyexp s w o n
    exact ⟨hkeeps, fun a ha _ => hkeeps.readReg_eq ha fun _ => rfl, (nomatch ·), fun _ => rfl,
      fun hcmd => by simp at hcmd, fun herr => absurd rfl herr⟩
  · have hkeeps := commandKeeps_acceptTransform s x o n
    refine ⟨hkeeps, fun a ha _ => hkeeps.readReg_eq ha fun _ => rfl, ?_, ?_, fun _ => ⟨rfl, rfl, rfl⟩,
      fun herr => absurd rfl herr⟩
    · rintro rfl
      simp at hcmd
    · rintro rfl
      simp at hcmd

end Sys2Proof.Machine

/-! ### A command in flight
What the host can do to a busy engine, cycle by cycle, and what the cycle of the completion leaves
(spec/20_memory.md R45, spec/60_exceptions.md R154, spec/41_key_expansion.md R107). Stated of any command in flight. -/

namespace Sys2Proof.Machine

/-- A cycle outside reset: what the tick leaves with host buffers and the port written, or a byte written to `CMD` of
the engine the tick leaves (R45, R140, R143). -/
theorem clockEdge_of_not_reset {p : Ports} (hrst : p.rst = false) (s : State) :
    (isCmdWrite p = false ∧ ∃ t, clockEdge p s = .next t ∧ BuffersOnly (engineTick s) t) ∨
    (isCmdWrite p = true ∧ clockEdge p s = command { engineTick s with rdata := 0 } p.wdata) := by
  cases hsel : p.sel with
  | false => exact .inl ⟨by simp [isCmdWrite, hsel], _, clockEdge_idle s hrst hsel, rfl⟩
  | true =>
    cases hwe : p.we with
    | false => exact .inl ⟨by simp [isCmdWrite, hwe], _, clockEdge_rd s hrst hsel hwe, rfl⟩
    | true =>
      rw [clockEdge_wr s hrst hsel hwe, execWr_eq]
      by_cases hcmd : p.addr = 0x20
      · rw [if_pos (regAt_eq_cmd.mpr hcmd)]
        exact .inr ⟨by simp [isCmdWrite, hrst, hsel, hwe, hcmd, cmdAddr], rfl⟩
      · rw [if_neg (mt regAt_eq_cmd.mp hcmd)]
        exact .inl ⟨by simpa [isCmdWrite, cmdAddr] using fun _ _ _ => hcmd, _, rfl, buffersOnly_writeReg _ 0 _ _⟩

/-- The tick takes no cycle from the host's coming ones (R178). -/
theorem engineTick_inputs_eq (s : State) : (engineTick s).inputs = s.inputs := by
  have h : engineTick s = { engineTick s with inputs := s.inputs } := engineTick_inputs s s.inputs
  rw [h]

/-- A byte written to `CMD` of a busy engine is a violation (R154). -/
theorem command_busy {s : State} (hop : s.op ≠ .idle) (v : Byte) : command s v = .next (raise s .busyViolation) := by
  simp [command, busy, hop]

/-- Two states that differ at most in what the host can change while a command is in flight: its buffers, `ERR`, the
port, the cycles left and the cycles to come (R154). -/
def HostOnly (s t : State) : Prop :=
  t = { s with
    key := t.key, din := t.din, keylen := t.keylen, err := t.err, cnt := t.cnt, rdata := t.rdata, inputs := t.inputs }

/-- The round keys with their size, and the last result with its flag, are the same. -/
def SameResults (s t : State) : Prop :=
  t.rk = s.rk ∧ t.keysize = s.keysize ∧ t.dout = s.dout ∧ t.dvalid = s.dvalid

namespace HostOnly

variable {s t u : State}

theorem of_eq (h : s = t) : HostOnly s t := by
  subst h
  rfl

theorem trans (hst : HostOnly s t) (htu : HostOnly t u) : HostOnly s u := by
  unfold HostOnly at *
  rw [htu, hst]

theorem of_buffersOnly (h : BuffersOnly s t) : HostOnly s t := by
  unfold BuffersOnly HostOnly at *
  rw [h]

theorem setInputs (s : State) (ps : List Ports) : HostOnly s { s with inputs := ps } := rfl

theorem sameResults (h : HostOnly s t) : SameResults s t := by
  rw [h]
  exact ⟨rfl, rfl, rfl, rfl⟩

/-- The completion reads and writes none of what the host can change (R107, R49). -/
theorem completed (h : HostOnly s t) : HostOnly (completed s) (completed t) := by
  rw [h]
  cases hop : s.op <;> simp [HostOnly, Machine.completed, complete, hop, completeKeyexp, completeTransform]

end HostOnly

/-- A command, accepted or refused, leaves the results. -/
theorem CommandKeeps.sameResults {s t : State} (h : CommandKeeps s t) : SameResults s t := by
  obtain ⟨hrk, -, -, -, hdout, hkeysize, hdvalid, -⟩ := h
  exact ⟨hrk, hkeysize, hdout, hdvalid⟩

/-- A cycle of a busy engine that does not complete: one cycle fewer is left, the rest is the host's (R178, R154). -/
theorem clockEdge_in_flight {s : State} {p : Ports} (hop : s.op ≠ .idle) (hcnt : 1 < s.cnt) (hrst : p.rst = false) :
    ∃ t, clockEdge p s = .next t ∧ HostOnly s t ∧ t.cnt = s.cnt - 1 ∧ t.inputs = s.inputs := by
  have htick : engineTick s = { s with cnt := s.cnt - 1 } := by
    rcases engineTick_cases s with ⟨hidle, -⟩ | ⟨-, -, ht⟩ | ⟨-, hle, -⟩
    · exact absurd hidle hop
    · exact ht
    · omega
  rcases clockEdge_of_not_reset hrst s with ⟨-, t, hedge, ht⟩ | ⟨-, hedge⟩
  · rw [htick] at ht
    refine ⟨t, hedge, HostOnly.trans (t := { s with cnt := s.cnt - 1 }) rfl (.of_buffersOnly ht), ?_, ?_⟩ <;> rw [ht]
  · rw [htick] at hedge
    exact ⟨_, hedge.trans (command_busy (s := { s with cnt := s.cnt - 1, rdata := 0 }) hop p.wdata), rfl, rfl, rfl⟩

/-- The cycle of the completion, where the completion leaves `c`: the results are those of `c` whatever the host's
access, and where that is no command so is the engine (R107, R45). -/
theorem clockEdge_completing {s c : State} {p : Ports} (hop : s.op ≠ .idle) (hcnt : s.cnt = 1) (hrst : p.rst = false)
    (hc : HostOnly c (completed s)) :
    ∃ t, clockEdge p s = .next t ∧ t.inputs = s.inputs ∧ SameResults c t ∧ (isCmdWrite p = false → HostOnly c t) := by
  have htick : engineTick s = completed s := engineTick_completes hop hcnt.le
  rw [← htick] at hc
  rcases clockEdge_of_not_reset hrst s with ⟨-, t, hedge, ht⟩ | ⟨hcmd, hedge⟩
  · have hct : HostOnly c t := hc.trans (.of_buffersOnly ht)
    refine ⟨t, hedge, ?_, hct.sameResults, fun _ => hct⟩
    rw [ht, engineTick_inputs_eq]
  · obtain ⟨t, ht⟩ := command_next { engineTick s with rdata := 0 } p.wdata
    have hkeeps := commandKeeps_command ht
    have hct : SameResults c t := by
      obtain ⟨hrk, hkeysize, hdout, hdvalid⟩ := hc.sameResults
      obtain ⟨hrk', hkeysize', hdout', hdvalid'⟩ := hkeeps.sameResults
      exact ⟨hrk'.trans hrk, hkeysize'.trans hkeysize, hdout'.trans hdout, hdvalid'.trans hdvalid⟩
    obtain ⟨-, -, -, -, -, -, -, -, hin, -⟩ := hkeeps
    exact ⟨t, hedge.trans ht, hin.trans (engineTick_inputs_eq s), hct,
      fun hnot => absurd (hcmd.symm.trans hnot) (by decide)⟩

theorem noReset_cons {p : Ports} {ps : List Ports} : noReset (p :: ps) ↔ p.rst = false ∧ noReset ps :=
  List.forall_mem_cons

/-- Fewer cycles than are left: the command is in flight still, and only what is the host's has changed. -/
theorem runCycles_in_flight (ps : List Ports) {s : State} (hop : s.op ≠ .idle) (hlen : ps.length < s.cnt)
    (hreset : noReset ps) : NextWith (runCycles ps s) fun t => HostOnly s t := by
  induction ps generalizing s with
  | nil => exact ⟨_, runCycles_nil s, rfl⟩
  | cons p ps ih =>
    obtain ⟨hrst, hreset⟩ := noReset_cons.mp hreset
    rw [List.length_cons] at hlen
    obtain ⟨t, hedge, hst, hcnt, hin⟩ :=
      clockEdge_in_flight (s := { s with inputs := ps }) hop (show 1 < s.cnt by omega) hrst
    have hst := (HostOnly.setInputs s ps).trans hst
    obtain ⟨u, hrun, htu⟩ := ih (s := t) (by rwa [hst]) (by rw [hcnt]; exact Nat.lt_sub_of_add_lt hlen) hreset
    exact ⟨u, (runCycles_cons hedge hin).trans hrun, hst.trans htu⟩

/-- As many cycles as are left, where the completion leaves `c`: the results are those of `c`, and where the last cycle
is no command so is the engine. -/
theorem runCycles_to_completion (c : State) (ps : List Ports) {s : State} (hop : s.op ≠ .idle) (hpos : 0 < s.cnt)
    (hlen : ps.length = s.cnt) (hreset : noReset ps) (hc : HostOnly c (completed s)) :
    NextWith (runCycles ps s) fun t =>
      SameResults c t ∧ ((∀ p ∈ ps.getLast?, isCmdWrite p = false) → HostOnly c t) := by
  induction ps generalizing s with
  | nil => exact absurd hlen hpos.ne
  | cons p ps ih =>
    obtain ⟨hrst, hreset⟩ := noReset_cons.mp hreset
    have hc' : HostOnly c (completed { s with inputs := ps }) := hc.trans (HostOnly.setInputs s ps).completed
    rw [List.length_cons] at hlen
    cases ps with
    | nil =>
      obtain ⟨t, hedge, hin, hresults, hquiet⟩ :=
        clockEdge_completing (s := { s with inputs := [] }) hop hlen.symm hrst hc'
      have hrun : runCycles [p] s = .next { t with inputs := [] } := (runCycles_cons hedge hin).trans (runCycles_nil t)
      refine ⟨_, hrun, hresults, fun hlast => (hquiet ?_).trans (.setInputs t [])⟩
      exact hlast p rfl
    | cons q qs =>
      rw [List.length_cons] at hlen
      obtain ⟨t, hedge, hst, hcnt, hin⟩ :=
        clockEdge_in_flight (s := { s with inputs := q :: qs }) hop (show 1 < s.cnt by omega) hrst
      have hcnt : t.cnt = qs.length + 1 := by rw [hcnt, ← hlen]; rfl
      obtain ⟨u, hrun, hu⟩ :=
        ih (s := t) (by rwa [hst]) (by omega) (by rw [hcnt, List.length_cons]) hreset (hc'.trans hst.completed)
      exact ⟨u, (runCycles_cons hedge hin).trans hrun, hu⟩

/-- The first cycle of a run issues a command on an idle engine, which answers `a`; the rest runs from there. -/
theorem runCycles_command {i : Instr} {ps : List Ports} {s a : State} (hop : s.op = .idle)
    (hexec : exec i { s with inputs := ps, rdata := 0 } = .next a) (hin : a.inputs = ps) :
    runCycles (instrPorts i :: ps) s = runCycles ps a := by
  refine runCycles_cons ?_ hin
  rw [clockEdge_instrPorts, engineTick_idle (s := { s with inputs := ps }) hop, hexec]

/-- KEYEXP issued on `s` runs as operation `o`: in flight until its latency has passed, with the results of before, and
then complete with the round keys `rk` of the size `keysize`. -/
def KeyexpRuns (s : State) (ps : List Ports) (o : Op) (rk : RoundKeys) (keysize : Bool) : Prop :=
  (ps.length < latencyOf o → NextWith (runCycles (instrPorts .keyexp :: ps) s) fun t =>
    t.op = o ∧ t.keyvalid = false ∧ t.keysize = s.keysize ∧ t.rk = s.rk ∧ t.dout = s.dout ∧ t.dvalid = s.dvalid) ∧
  (ps.length = latencyOf o → NextWith (runCycles (instrPorts .keyexp :: ps) s) fun t =>
    t.rk = rk ∧ t.keysize = keysize ∧ t.dout = s.dout ∧ t.dvalid = s.dvalid ∧
    ((∀ p ∈ ps.getLast?, isCmdWrite p = false) →
      t.op = .idle ∧ t.keyvalid = true ∧ t.wk = Vector.replicate 32 0))

/-- A KEYEXP that is accepted, and completes to `rk`, runs so under any cycles without reset. -/
theorem keyexpRuns_of_accepted {s : State} {ps : List Ports} {w : WorkKey} {o : Op} {rk : RoundKeys} {keysize : Bool}
    (hop : s.op = .idle) (hreset : noReset ps) (ho : o ≠ .idle)
    (hexec : exec .keyexp { s with inputs := ps, rdata := 0 } =
      .next (acceptKeyexp { s with inputs := ps, rdata := 0 } w o (latencyOf o)))
    (hdone : completed (acceptKeyexp { s with inputs := ps, rdata := 0 } w o (latencyOf o)) =
      completeKeyexp { acceptKeyexp { s with inputs := ps, rdata := 0 } w o (latencyOf o) with cnt := 0 } rk keysize) :
    KeyexpRuns s ps o rk keysize := by
  unfold KeyexpRuns
  rw [runCycles_command hop hexec rfl]
  refine ⟨fun hlen => ?_, fun hlen => ?_⟩
  · obtain ⟨t, hrun, ht⟩ := runCycles_in_flight ps
      (s := acceptKeyexp { s with inputs := ps, rdata := 0 } w o (latencyOf o)) ho hlen hreset
    refine ⟨t, hrun, ?_⟩
    rw [ht]
    exact ⟨rfl, rfl, rfl, rfl, rfl, rfl⟩
  · obtain ⟨t, hrun, ⟨hrk, hkeysize, hdout, hdvalid⟩, hquiet⟩ := runCycles_to_completion _ ps
      (s := acceptKeyexp { s with inputs := ps, rdata := 0 } w o (latencyOf o)) ho (latencyOf_pos ho) hlen hreset
      (.of_eq hdone.symm)
    refine ⟨t, hrun, hrk, hkeysize, hdout, hdvalid, fun hlast => ?_⟩
    rw [hquiet hlast]
    exact ⟨rfl, rfl, rfl⟩

/-- Settles O36: the acceptance of an 80-bit KEYEXP, and what it completes to. -/
theorem keyexp80RunFillsTheRoundKeys : Obligations.Keyexp80RunFillsTheRoundKeys := by
  intro s ps hop hlen hreset
  exact keyexpRuns_of_accepted hop hreset (by decide)
    (exec_keyexp80_idle (s := { s with inputs := ps, rdata := 0 }) hop hlen)
    (completed_keyexp80 (s := { s with inputs := ps, rdata := 0 }) rfl _)

/-- Settles O37: the same of a 128-bit KEYEXP. -/
theorem keyexp128RunFillsTheRoundKeys : Obligations.Keyexp128RunFillsTheRoundKeys := by
  intro s ps hop hlen hreset
  exact keyexpRuns_of_accepted hop hreset (by decide)
    (exec_keyexp128_idle (s := { s with inputs := ps, rdata := 0 }) hop hlen)
    (completed_keyexp128 (s := { s with inputs := ps, rdata := 0 }) rfl _)

end Sys2Proof.Machine

/-! ### The transforms round by round
The state of either transform after `n` rounds, the round keys it takes, and the rounds of `Decrypt` undone by those of
`Encrypt` (spec/42_block_transform.md R122, R123, R124, R127). -/

namespace Sys2Proof.Machine

/-- One round with its permutation: a Feistel step, then `Permute` with table `t` (R122, R123). -/
def cipherRound (t : Vector (Fin 16) 16) (x : Nibbles16) (k : RoundKey) : Nibbles16 := permute t (feistelStep x k)

/-- The block after the first `n` rounds that take their keys from the list in its order. -/
def afterRounds (t : Vector (Fin 16) 16) (keys : List RoundKey) (n : Nat) (x : Nibbles16) : Nibbles16 :=
  (keys.take n).foldl (cipherRound t) x

theorem afterRounds_zero (t : Vector (Fin 16) 16) (keys : List RoundKey) (x : Nibbles16) :
    afterRounds t keys 0 x = x := rfl

/-- One more round takes the next key. -/
theorem afterRounds_succ (t : Vector (Fin 16) 16) (keys : List RoundKey) {n : Nat} (hn : n < keys.length)
    (x : Nibbles16) : afterRounds t keys (n + 1) x = cipherRound t (afterRounds t keys n x) keys[n] := by
  rw [afterRounds, List.take_succ_eq_append_getElem hn, List.foldl_append, List.foldl_cons, List.foldl_nil,
    afterRounds]

/-- `Encrypt` takes the round keys in their order, the last one for the step alone (R122). -/
theorem encryptNibbles_eq (rk : RoundKeys) (x : Nibbles16) :
    encryptNibbles rk x = feistelStep (afterRounds shufRom rk.toList 35 x) rk[35] := rfl

/-- The first 35 keys in reverse order are all but the first key, reversed. -/
theorem roundKeys_reverse_take (rk : RoundKeys) : rk.toList.reverse.take 35 = (rk.toList.drop 1).reverse := by
  rw [List.take_reverse, Vector.length_toList]

/-- `Decrypt` takes them in reverse order, the first one for the step alone (R123). -/
theorem decryptNibbles_eq (rk : RoundKeys) (x : Nibbles16) :
    decryptNibbles rk x = feistelStep (afterRounds shufinvRom rk.toList.reverse 35 x) rk[0] := by
  rw [afterRounds, roundKeys_reverse_take]
  rfl

/-- The key of `Decrypt` in its round `i`, counted from 0 (R123). -/
theorem roundKeys_getElem_reverse (rk : RoundKeys) (i : Nat) (hi : i < 35) :
    rk.toList.reverse[i]'(by simp; omega) = rk[35 - i] := by
  simp only [List.getElem_reverse, Vector.length_toList, Vector.getElem_toList]

/-- Settles O55: `E i` and `D i` are the block after `i` rounds, each round one more key. -/
theorem transformsByRounds : Obligations.TransformsByRounds := by
  intro rk b
  refine ⟨⟨fun i => afterRounds shufRom rk.toList i (unpack b), afterRounds_zero _ _ _, fun i hi => ?_, ?_⟩,
    ⟨fun i => afterRounds shufinvRom rk.toList.reverse i (unpack b), afterRounds_zero _ _ _, fun i hi => ?_, ?_⟩⟩
  · simp only [afterRounds_succ shufRom rk.toList (n := i) (by simp; omega), Vector.getElem_toList, cipherRound]
  · rw [encrypt, encryptNibbles_eq]
  · simp only [afterRounds_succ shufinvRom rk.toList.reverse (n := i) (by simp; omega),
      roundKeys_getElem_reverse rk i hi, cipherRound]
  · rw [decrypt, decryptNibbles_eq]

/-- The last round key and the others, back to the first, are the whole table in reverse. -/
theorem roundKeys_cons_reverse (rk : RoundKeys) : rk[35] :: (rk.toList.take 35).reverse = rk.toList.reverse := by
  have hall : rk.toList.take 35 ++ [rk[35]] = rk.toList := by
    rw [← Vector.getElem_toList (xs := rk) (i := 35) (by simp), ← List.take_succ_eq_append_getElem (by simp)]
    exact List.take_of_length_le (by simp)
  calc rk[35] :: (rk.toList.take 35).reverse = (rk.toList.take 35 ++ [rk[35]]).reverse := by
        rw [List.reverse_append, List.reverse_singleton, List.singleton_append]
    _ = rk.toList.reverse := by rw [hall]

/-- The keys of `Decrypt` before its last one, and the last one. -/
theorem roundKeys_drop_reverse (rk : RoundKeys) :
    (rk.toList.drop 1).reverse = (rk[35] :: (rk.toList.take 35).reverse).dropLast := by
  rw [roundKeys_cons_reverse, List.dropLast_reverse, List.drop_one]

theorem roundKeys_first (rk : RoundKeys) :
    rk[0] = (rk[35] :: (rk.toList.take 35).reverse).getLast (List.cons_ne_nil _ _) := by
  simp only [roundKeys_cons_reverse, List.getLast_reverse, List.head_eq_getElem, Vector.getElem_toList]

/-- `Encrypt` undoes `Decrypt`, for every round-key table and every block: the argument of `decrypt_encrypt` on the
reversed table, with the two shuffles exchanged (R127). -/
theorem encrypt_decrypt (rk : RoundKeys) (b : Block) : encrypt rk (decrypt rk b) = b := by
  have hrounds : encryptNibbles rk (decryptNibbles rk (unpack b)) = unpack b := by
    have hundo := rounds_undo feistelStep_feistelStep (permute_permute shuf_shufinv shufinv_shuf) rk[35]
      (rk.toList.take 35).reverse (unpack b)
    rwa [List.reverse_reverse, ← roundKeys_drop_reverse, ← roundKeys_first] at hundo
  rw [encrypt, decrypt, unpack_pack, hrounds, pack_unpack]

/-- Settles O44: each transform runs the rounds of the other backwards. -/
theorem decryptAndEncryptAreInverse : Obligations.DecryptAndEncryptAreInverse := fun rk b =>
  ⟨decrypt_encrypt rk b, encrypt_decrypt rk b⟩

/-- Either datapath computes the step: the serial one takes the lanes in their own order (R124). -/
theorem feistelOn_eq_feistelStep (d : Datapath) (x : Nibbles16) (k : RoundKey) : feistelOn d x k = feistelStep x k := by
  cases d with
  | parallel => rfl
  | serial => exact feistelSerial_eq_feistelStep (List.Perm.refl _) x k

/-- Settles O46: the configured datapath is one of the two. -/
theorem datapathsAgree : Obligations.DatapathsAgree :=
  ⟨feistelOn_eq_feistelStep Config.datapath, feistelOn_eq_feistelStep⟩

end Sys2Proof.Machine

/-! ### ENC and DEC accepted, completed and run
The two transforms from the cycle of the command to the cycle of the result, as one argument over the operation `o` and
the result block it completes to (spec/42_block_transform.md R120, R121, R126; spec/20_memory.md R45, R49). -/

namespace Sys2Proof.Machine

/-- Settles O23: the state of each acceptance, and the nibbles it has loaded. -/
theorem encAndDecAreAccepted : Obligations.EncAndDecAreAccepted := by
  intro s hop hkey
  refine ⟨⟨_, exec_enc_idle hop hkey, ?_, rfl⟩, ⟨_, exec_dec_idle hop hkey, ?_, rfl⟩⟩
  · exact unpackByBytes.1 8 s.din
  · exact unpackByBytes.1 8 s.din

/-- What the completions of ENC and DEC leave of the block `b` sampled at accept and the round keys `rk`: the nibbles of
the transform, to be packed into `DOUT` (R120, R121). -/
theorem completed_eq_encrypted {s : State} {rk : RoundKeys} {b : Block} (hop : s.op = .enc) (hrk : s.rk = rk)
    (hx : s.x = unpack b) : completed s = completeTransform { s with cnt := 0 } (unpack (encrypt rk b)) := by
  rw [encrypt, unpack_pack, ← hrk, ← hx, completed, complete, hop]

theorem completed_eq_decrypted {s : State} {rk : RoundKeys} {b : Block} (hop : s.op = .dec) (hrk : s.rk = rk)
    (hx : s.x = unpack b) : completed s = completeTransform { s with cnt := 0 } (unpack (decrypt rk b)) := by
  rw [decrypt, unpack_pack, ← hrk, ← hx, completed, complete, hop]

/-- Settles O29: with one cycle left the tick is the completion. -/
theorem tickCompletesTransform : Obligations.TickCompletesTransform := by
  intro s b hcnt hx
  refine ⟨fun hop => ?_, fun hop => ?_⟩
  · calc engineTick s = completed s := engineTick_completes (by simp [hop]) hcnt.le
      _ = completeTransform { s with cnt := 0 } (unpack (encrypt s.rk b)) := completed_eq_encrypted hop rfl hx
      _ = _ := by rw [completeTransform, pack_unpack]
  · calc engineTick s = completed s := engineTick_completes (by simp [hop]) hcnt.le
      _ = completeTransform { s with cnt := 0 } (unpack (decrypt s.rk b)) := completed_eq_decrypted hop rfl hx
      _ = _ := by rw [completeTransform, pack_unpack]

/-- The command in flight, its operand and `KEYVALID` are not the host's to change (R154). -/
theorem HostOnly.op_keyvalid_x {s t : State} (h : HostOnly s t) :
    t.op = s.op ∧ t.keyvalid = s.keyvalid ∧ t.x = s.x := by
  rw [h]
  exact ⟨rfl, rfl, rfl⟩

/-- The command `i` issued on `s` runs as transform `o`: in flight until its latency has passed, with the results of
before, and then complete with the block `c`. -/
def TransformRuns (i : Instr) (s : State) (ps : List Ports) (o : Op) (c : Block) : Prop :=
  (ps.length < latencyOf o → NextWith (runCycles (instrPorts i :: ps) s) fun t =>
    t.op = o ∧ t.keyvalid = true ∧ t.rk = s.rk ∧ t.dout = s.dout ∧ t.dvalid = s.dvalid) ∧
  (ps.length = latencyOf o → NextWith (runCycles (instrPorts i :: ps) s) fun t =>
    t.dout = c ∧ t.dvalid = true ∧ t.rk = s.rk ∧
    ((∀ p ∈ ps.getLast?, isCmdWrite p = false) → t.op = .idle ∧ t.keyvalid = true ∧ t.x = unpack c))

/-- A transform that is accepted, and completes to `c`, runs so under any cycles without reset. -/
theorem transformRuns_of_accepted {i : Instr} {s : State} {ps : List Ports} {x : Nibbles16} {o : Op} {c : Block}
    (hop : s.op = .idle) (hkey : s.keyvalid = true) (hreset : noReset ps) (ho : o ≠ .idle)
    (hexec : exec i { s with inputs := ps, rdata := 0 } =
      .next (acceptTransform { s with inputs := ps, rdata := 0 } x o (latencyOf o)))
    (hdone : completed (acceptTransform { s with inputs := ps, rdata := 0 } x o (latencyOf o)) =
      completeTransform { acceptTransform { s with inputs := ps, rdata := 0 } x o (latencyOf o) with cnt := 0 }
        (unpack c)) :
    TransformRuns i s ps o c := by
  unfold TransformRuns
  rw [runCycles_command hop hexec rfl]
  refine ⟨fun hlen => ?_, fun hlen => ?_⟩
  · obtain ⟨t, hrun, ht⟩ := runCycles_in_flight ps
      (s := acceptTransform { s with inputs := ps, rdata := 0 } x o (latencyOf o)) ho hlen hreset
    obtain ⟨hto, htkey, -⟩ := ht.op_keyvalid_x
    obtain ⟨hrk, -, hdout, hdvalid⟩ := ht.sameResults
    exact ⟨t, hrun, hto, htkey.trans hkey, hrk, hdout, hdvalid⟩
  · obtain ⟨t, hrun, ⟨hrk, -, hdout, hdvalid⟩, hquiet⟩ := runCycles_to_completion _ ps
      (s := acceptTransform { s with inputs := ps, rdata := 0 } x o (latencyOf o)) ho (latencyOf_pos ho) hlen hreset
      (.of_eq hdone.symm)
    rw [completeTransform_dout, pack_unpack] at hdout
    rw [completeTransform_rk] at hrk
    refine ⟨t, hrun, hdout, hdvalid, hrk, fun hlast => ?_⟩
    obtain ⟨hto, htkey, htx⟩ := (hquiet hlast).op_keyvalid_x
    rw [completeTransform_keyvalid] at htkey
    exact ⟨hto, htkey.trans hkey, htx⟩

/-- Settles O38: the acceptance of an ENC, and what it completes to. -/
theorem encRunWritesTheCiphertext : Obligations.EncRunWritesTheCiphertext := by
  intro s ps hop hkey hreset
  exact transformRuns_of_accepted hop hkey hreset (by decide)
    (exec_enc_idle (s := { s with inputs := ps, rdata := 0 }) hop hkey)
    (completed_eq_encrypted (acceptTransform_op _ _ _ _) (acceptTransform_rk _ _ _ _) (acceptTransform_x _ _ _ _))

/-- Settles O39: the same of a DEC. -/
theorem decRunWritesThePlaintext : Obligations.DecRunWritesThePlaintext := by
  intro s ps hop hkey hreset
  exact transformRuns_of_accepted hop hkey hreset (by decide)
    (exec_dec_idle (s := { s with inputs := ps, rdata := 0 }) hop hkey)
    (completed_eq_decrypted (acceptTransform_op _ _ _ _) (acceptTransform_rk _ _ _ _) (acceptTransform_x _ _ _ _))

/-- Two runs of a transform that complete to the same block have the same `DOUT` when the latency has passed. -/
theorem TransformRuns.dout_eq {i : Instr} {s u : State} {ps qs : List Ports} {o : Op} {c : Block}
    (hs : TransformRuns i s ps o c) (hu : TransformRuns i u qs o c) (hps : ps.length = latencyOf o)
    (hqs : qs.length = latencyOf o) :
    ∃ t v, runCycles (instrPorts i :: ps) s = .next t ∧ runCycles (instrPorts i :: qs) u = .next v ∧
      t.dout = v.dout := by
  obtain ⟨t, hrunS, htdout, -⟩ := hs.2 hps
  obtain ⟨v, hrunU, hvdout, -⟩ := hu.2 hqs
  exact ⟨t, v, hrunS, hrunU, htdout.trans hvdout.symm⟩

/-- Settles O40: the block each run completes to is given by `RK` and by `DIN` at acceptance. -/
theorem transformDependsOnRoundKeysAndBlockOnly : Obligations.TransformDependsOnRoundKeysAndBlockOnly := by
  intro s u ps qs hsop huop hskey hukey hrk hdin hps hqs
  refine ⟨TransformRuns.dout_eq (c := encrypt s.rk s.din) ?_ ?_, TransformRuns.dout_eq (c := decrypt s.rk s.din) ?_ ?_⟩
  · exact encRunWritesTheCiphertext s ps hsop hskey hps
  · rw [hrk, hdin]
    exact encRunWritesTheCiphertext u qs huop hukey hqs
  · exact decRunWritesThePlaintext s ps hsop hskey hps
  · rw [hrk, hdin]
    exact decRunWritesThePlaintext u qs huop hukey hqs

end Sys2Proof.Machine

/-! ### Host access
What a bus access does, address by address, and what it leaves (spec/43_host_access.md R140 to R144). -/

namespace Sys2Proof.Machine

theorem addrOf_key_lt : ∀ k, (addrOf (.key k)).toNat < 0x10 := by decide

theorem addrOf_din_bounds : ∀ k, 0x10 ≤ (addrOf (.din k)).toNat ∧ (addrOf (.din k)).toNat < 0x18 := by decide

section Buffers
/-! A register write leaves each host buffer that its address does not name (R140, R41). -/

variable {a : Addr} (s : State) (v : Byte)

theorem writeReg_key_of_le (h : 0x10 ≤ a.toNat) : (writeReg s a v).key = s.key := by
  obtain ⟨r, rfl⟩ : ∃ r, a = addrOf r := ⟨regAt a, (addrOf_regAt a).symm⟩
  rw [writeReg_addrOf]
  cases r with
  | key k => exact absurd h (addrOf_key_lt k).not_ge
  | _ => rfl

theorem writeReg_din_of_outside (h : a.toNat < 0x10 ∨ 0x18 ≤ a.toNat) : (writeReg s a v).din = s.din := by
  obtain ⟨r, rfl⟩ : ∃ r, a = addrOf r := ⟨regAt a, (addrOf_regAt a).symm⟩
  rw [writeReg_addrOf]
  cases r with
  | din k =>
    obtain ⟨hlow, hhigh⟩ := addrOf_din_bounds k
    omega
  | _ => rfl

theorem writeReg_keylen_of_ne (h : a ≠ 0x22) : (writeReg s a v).keylen = s.keylen := by
  obtain ⟨r, rfl⟩ : ∃ r, a = addrOf r := ⟨regAt a, (addrOf_regAt a).symm⟩
  rw [writeReg_addrOf]
  cases r with
  | keylen => exact absurd rfl h
  | _ => rfl

/-- Above `DIN` only `KEYLEN` stores a byte (R50). -/
theorem writeReg_ignored (h : 0x18 ≤ a.toNat) (hkeylen : a ≠ 0x22) : writeReg s a v = s := by
  have hkey : 0x10 ≤ a.toNat := by omega
  rw [writeReg_eq_update, writeReg_key_of_le s v hkey, writeReg_din_of_outside s v (.inr h),
    writeReg_keylen_of_ne s v hkeylen]

end Buffers

/-- Settles O12: off `CMD` a write is the register write, which stores the byte in the register the address names. -/
theorem wrByAddress : Obligations.WrByAddress := by
  intro s v
  have hwr {r : Reg} (hr : r ≠ .cmd) := (exec_wr_addrOf hr v s).trans (congrArg _ (writeReg_addrOf s r v))
  refine ⟨fun k => hwr (r := .key k) (nomatch ·), fun k => hwr (r := .din k) (nomatch ·),
    hwr (r := .keylen) (nomatch ·), exec_wr_cmdAddr v s, fun a ha hcmd hkeylen => ?_⟩
  rw [exec_wr_of_ne_cmd hcmd, writeReg_ignored s v ha hkeylen]

/-- Settles O14: a byte written to `CMD` keeps what `CommandKeeps` names; off `CMD` a write is the register write, which
changes only the host buffer its address names. -/
theorem wrFrame : Obligations.WrFrame := by
  intro s t a v hexec
  by_cases hcmd : a = 0x20
  · subst hcmd
    have hkeeps : CommandKeeps s t := commandKeeps_command ((exec_wr_cmdAddr v s).symm.trans hexec)
    have hread (b : Addr) (hb : ¬ (b = 0x21 ∨ b = 0x23)) : readReg t b = readReg s b :=
      hkeeps.readReg_eq (fun h21 => hb (.inl h21)) (fun h23 => absurd (.inr h23) hb)
    obtain ⟨hrk, hkey, hkeylen, hdin, hdout, hkeysize, hdvalid, hrdata, hinputs, hfree⟩ := hkeeps
    exact ⟨⟨hrk, hdout, hdvalid, hkeysize, hrdata, hinputs, hfree⟩, fun _ => hkey, fun _ => hdin, fun _ => hkeylen,
      fun b _ hb => hread b fun h => hb ⟨rfl, h⟩, fun hne => absurd rfl hne⟩
  · cases (exec_wr_of_ne_cmd hcmd v s).symm.trans hexec
    refine ⟨?_, writeReg_key_of_le s v, writeReg_din_of_outside s v, writeReg_keylen_of_ne s v,
      fun b hb _ => readReg_writeReg_ne s v hb, fun _ => ?_⟩ <;>
      rw [writeReg_eq_update] <;>
      exact ⟨rfl, rfl, rfl, rfl, rfl, rfl, rfl⟩

/-- A bus read puts the register's value on `rdata` (R141). -/
theorem exec_rd_of_readReg_eq {s : State} {a : Addr} {v : Byte} (h : readReg s a = v) :
    exec (.rd a) s = .next { s with rdata := v } := by
  subst h
  rfl

/-- Settles O15: what each register reads as, put on `rdata`. -/
theorem rdByAddress : Obligations.RdByAddress := by
  intro s
  refine ⟨fun k => exec_rd_of_readReg_eq (readReg_addrOf s (.key k)),
    fun k => exec_rd_of_readReg_eq (readReg_addrOf s (.din k)),
    fun k => exec_rd_of_readReg_eq (readReg_addrOf s (.dout k)), exec_rd_of_readReg_eq (readReg_cmd s),
    exec_rd_of_readReg_eq (readReg_status s), exec_rd_of_readReg_eq (readReg_addrOf s .keylen),
    exec_rd_of_readReg_eq (readReg_addrOf s .errlen), exec_rd_of_readReg_eq (readReg_blksize s), fun a ha => ?_⟩
  obtain ⟨k, rfl⟩ := addr_of_reserved a ha
  exact exec_rd_of_readReg_eq (readReg_addrOf s (.reserved k))

/-- Settles O18: the busy check, the illegal byte, then the command the byte decodes to. -/
theorem commandChecksInOrder : Obligations.CommandChecksInOrder := by
  intro s v
  have hdec {b : Byte} {i : Instr} (h : decodeCmd b = .ok i) (hv : v = b) : exec (.wr 0x20 v) s = exec i s :=
    hv ▸ exec_wr_cmd h s
  exact ⟨fun hop => (exec_wr_cmdAddr v s).trans (command_busy hop v), fun hop =>
    ⟨fun hv => (exec_wr_cmdAddr v s).trans (command_illegal hop hv),
      fun hv => (hdec rfl hv).trans (exec_nop_idle hop), hdec rfl, hdec rfl, hdec rfl⟩⟩

/-- Settles O20: NOP is the write of its byte to `CMD`, so on a busy engine it is a violation like any other. -/
theorem nopClearsErr : Obligations.NopClearsErr := by
  intro s
  have hwr : exec .nop s = command s 0x00 := (exec_wr_cmd rfl s).symm.trans (exec_wr_cmdAddr 0x00 s)
  exact ⟨fun hop => exec_nop_idle hop, fun hop => hwr.trans (command_busy hop 0x00)⟩

/-- Settles O60: the call is one read of `BLKSIZE`, which reads 8 in whatever state the tick leaves. -/
theorem blockSizeCallReturnsEight : Obligations.BlockSizeCallReturnsEight := by
  intro s fuel
  have hline := runLine_rd fuel 0x24 s
  rw [readReg_blksize] at hline
  exact ⟨_, runLines_cons hline rfl⟩

end Sys2Proof.Machine

/-! ### Refused commands and a quiet engine
What each check of a command leaves in `ERR`, what the tick makes of it, and an engine that no command reaches
(spec/60_exceptions.md R150, R152, R154, R163). -/

namespace Sys2Proof.Machine

/-- ENC and DEC on an idle engine without an instance are refused (R152). -/
theorem exec_enc_refused {s : State} (hop : s.op = .idle) (hkey : s.keyvalid = false) :
    exec .enc s = .next (raise s .noKey) := by
  simp [exec, execEnc, busy, hop, hkey]

theorem exec_dec_refused {s : State} (hop : s.op = .idle) (hkey : s.keyvalid = false) :
    exec .dec s = .next (raise s .noKey) := by
  simp [exec, execDec, busy, hop, hkey]

/-- Settles O24: the refusal takes code 2, and no length with it. -/
theorem encAndDecWithoutKeyAreRefused : Obligations.EncAndDecWithoutKeyAreRefused :=
  fun _ hop hkey => ⟨exec_enc_refused hop hkey, exec_dec_refused hop hkey⟩

/-- With a cycle left after this one the tick of a busy engine counts (R178). -/
theorem engineTick_counts {s : State} (hop : s.op ≠ .idle) (hcnt : 1 < s.cnt) :
    engineTick s = { s with cnt := s.cnt - 1 } := by
  rcases engineTick_cases s with ⟨hidle, -⟩ | ⟨-, -, ht⟩ | ⟨-, hle, -⟩
  · exact absurd hidle hop
  · exact ht
  · omega

/-- A completion neither reads nor changes `ERR` (R154). -/
theorem complete_setErr (s : State) (e : BitVec 3) : complete { s with err := e } = { complete s with err := e } := by
  cases hop : s.op <;> simp [complete, hop, completeKeyexp, completeTransform]

/-- Nor does a tick, idle, counting or completing (R150, R154, R178). -/
theorem engineTick_setErr (s : State) (e : BitVec 3) :
    engineTick { s with err := e } = { engineTick s with err := e } := by
  by_cases hop : s.op = .idle
  · rw [engineTick_idle hop, engineTick_idle (s := { s with err := e }) hop]
  · by_cases hcnt : s.cnt ≤ 1
    · rw [engineTick_completes hop hcnt, engineTick_completes (s := { s with err := e }) hop hcnt]
      exact complete_setErr { s with cnt := 0 } e
    · have hlt : 1 < s.cnt := Nat.lt_of_not_le hcnt
      rw [engineTick_counts hop hlt, engineTick_counts (s := { s with err := e }) hop hlt]

/-- So it leaves `ERR` (R150). -/
theorem engineTick_err (s : State) : (engineTick s).err = s.err := by
  have h : engineTick s = { engineTick s with err := s.err } := engineTick_setErr s s.err
  rw [h]

/-- Each of the four commands on a busy engine is a violation, as its byte written to `CMD` is (R142, R154). -/
theorem exec_command_busy {i : Instr} {s : State} (hop : s.op ≠ .idle)
    (hi : i = .nop ∨ i = .keyexp ∨ i = .enc ∨ i = .dec) : exec i s = .next (raise s .busyViolation) := by
  have hcmd {b : Byte} (hb : decodeCmd b = .ok i) : exec i s = .next (raise s .busyViolation) :=
    (exec_wr_cmd hb s).symm.trans ((exec_wr_cmdAddr b s).trans (command_busy hop b))
  rcases hi with rfl | rfl | rfl | rfl
  · exact hcmd (b := 0x00) rfl
  · exact hcmd (b := 0x01) rfl
  · exact hcmd (b := 0x02) rfl
  · exact hcmd (b := 0x03) rfl

/-- Settles O25: the violation takes code 4, and no length with it; the tick does not look at the code. -/
theorem busyEngineDropsCommands : Obligations.BusyEngineDropsCommands := fun s hop =>
  ⟨fun v => (exec_wr_cmdAddr v s).trans (command_busy hop v), fun _ hi => exec_command_busy hop hi,
    engineTick_setErr s 4⟩

/-- A register write stores into host buffers, and `ERR` is none (R140, R150). -/
theorem writeReg_err (s : State) (a : Addr) (v : Byte) : (writeReg s a v).err = s.err := by
  rw [writeReg_eq_update]

/-- Settles O19: the code and the length in each outcome of a command; reads, other writes and ticks leave `ERR`. -/
theorem outcomeCodeOfACommandWrite : Obligations.OutcomeCodeOfACommandWrite := by
  refine ⟨fun s v => ?_, fun s a => ⟨_, rfl, rfl⟩,
    fun s a v ha => ⟨_, exec_wr_of_ne_cmd ha v s, writeReg_err s a v⟩, engineTick_err⟩
  have hwr : exec (.wr 0x20 v) s = command s v := exec_wr_cmdAddr v s
  rw [hwr]
  rcases command_cases s v with ⟨hop, hc⟩ | ⟨hop, hv, hc⟩ | ⟨hop, rfl, hc⟩ | ⟨hop, rfl, h10, h16, hc⟩ |
    ⟨hop, rfl, h10, hc⟩ | ⟨hop, rfl, h16, hc⟩ | ⟨hop, hv, hkey, hc⟩ | ⟨hop, rfl, hkey, hc⟩ | ⟨hop, rfl, hkey, hc⟩
  · exact ⟨_, hc, by simp [hop, errCode]⟩
  · have hillegal : 4 ≤ v.toNat := hv
    exact ⟨_, hc, by simp [hop, hillegal, errCode]⟩
  · exact ⟨_, hc, by simp [hop, codeOk]⟩
  · exact ⟨_, hc, by simpa [hop, errCode] using ⟨h10, h16⟩⟩
  · exact ⟨_, hc, by simp [hop, h10, codeOk]⟩
  · exact ⟨_, hc, by simp [hop, h16, codeOk]⟩
  · rcases hv with rfl | rfl <;> exact ⟨_, hc, by simp [hop, hkey, errCode]⟩
  · exact ⟨_, hc, by simp [hop, hkey, codeOk]⟩
  · exact ⟨_, hc, by simp [hop, hkey, codeOk]⟩

/-- A cycle of an idle engine that is no reset and no command: the host's buffers and the port (R163). -/
theorem clockEdge_quiet {s : State} {p : Ports} (hop : s.op = .idle) (hrst : p.rst = false)
    (hquiet : isCmdWrite p = false) : ∃ t, clockEdge p s = .next t ∧ BuffersOnly s t := by
  rcases clockEdge_of_not_reset hrst s with ⟨-, t, hedge, ht⟩ | ⟨hcmd, -⟩
  · rw [engineTick_idle hop] at ht
    exact ⟨t, hedge, ht⟩
  · exact absurd (hcmd.symm.trans hquiet) (by decide)

/-- Which cycles are to come does not matter to it, if they are the same on both sides. -/
theorem BuffersOnly.setInputs {s t : State} (h : BuffersOnly s t) (ps : List Ports) :
    BuffersOnly { s with inputs := ps } { t with inputs := ps } := by
  unfold BuffersOnly at *
  rw [h]

/-- Any number of such cycles (R163, R181). -/
theorem runCycles_quiet (ps : List Ports) {s : State} (hop : s.op = .idle) (hreset : noReset ps)
    (hquiet : ∀ p ∈ ps, isCmdWrite p = false) :
    NextWith (runCycles ps s) fun t => BuffersOnly { s with inputs := [] } t := by
  induction ps generalizing s with
  | nil => exact ⟨_, runCycles_nil s, rfl⟩
  | cons p ps ih =>
    obtain ⟨hrst, hreset⟩ := noReset_cons.mp hreset
    obtain ⟨hp, hquiet⟩ := List.forall_mem_cons.mp hquiet
    obtain ⟨t, hedge, hst⟩ := clockEdge_quiet (s := { s with inputs := ps }) hop hrst hp
    obtain ⟨u, hrun, htu⟩ := ih (s := t) (by rwa [hst]) hreset hquiet
    exact ⟨u, (runCycles_cons hedge (by rw [hst])).trans hrun, (hst.setInputs []).trans htu⟩

/-- Settles O33: a quiescent engine is an idle one, and such a run changes only the host's buffers and the port. -/
theorem quiescentEngineKeepsItsState : Obligations.QuiescentEngineKeepsItsState := by
  intro s ps hs hreset hquiet
  exact runCycles_quiet ps (of_decide_eq_true hs) hreset hquiet

end Sys2Proof.Machine

/-! ### Reset, totality and hazards
What a reset cycle leaves, that no input is without an answer, how a command in flight ends, and what the engine keeps
off: the host's buffers and the host's coming cycles (spec/60_exceptions.md R170, R172, R178, R180 to R182). -/

namespace Sys2Proof.Machine

/-- Settles O8: the cycle is a reset edge, and every value asked for is that of `State.reset`. -/
theorem resetCycleGivesTheResetValues : Obligations.ResetCycleGivesTheResetValues := by
  intro s p ps hin hrst
  refine ⟨_, (step_cons hin).trans (clockEdge_reset _ hrst), ?_⟩
  simp [State.reset]

/-- Settles O9: the reset edge leaves an idle engine without key and result, and the cycles that follow reach only
the host's buffers and the port. -/
theorem resetAbandonsTheCommand : Obligations.ResetAbandonsTheCommand := by
  intro s p ps hrst hreset hquiet
  have hedge : clockEdge p { s with inputs := ps } = .next (resetEdge { s with inputs := ps }) := clockEdge_reset _ hrst
  obtain ⟨t, hrun, ht⟩ := runCycles_quiet ps (s := resetEdge { s with inputs := ps }) rfl hreset hquiet
  refine ⟨t, (runCycles_cons hedge rfl).trans hrun, ?_⟩
  rw [ht]
  exact ⟨rfl, rfl, rfl, rfl⟩

/-- Settles O27: the first two of the three things a tick can do. -/
theorem tickCountsDown : Obligations.TickCountsDown := fun _ => ⟨engineTick_idle, engineTick_counts⟩

/-- A command byte is the command it decodes to (R62, R143). -/
theorem command_of_decodeCmd {b : Byte} {i : Instr} (h : decodeCmd b = .ok i) (s : State) : command s b = exec i s :=
  (exec_wr_cmdAddr b s).symm.trans (exec_wr_cmd h s)

/-- Every instruction is a read, a register write off `CMD`, or a command byte (R60 to R62, R143). -/
theorem instr_cases (i : Instr) :
    (∃ a, i = .rd a) ∨ (∃ a v, a ≠ 0x20 ∧ i = .wr a v) ∨ ∃ b, ∀ s, exec i s = command s b := by
  have hcmd {b : Byte} (h : decodeCmd b = .ok i) : ∃ b, ∀ s, exec i s = command s b :=
    ⟨b, fun s => (command_of_decodeCmd h s).symm⟩
  cases i with
  | rd a => exact .inl ⟨a, rfl⟩
  | wr a v =>
    by_cases ha : a = 0x20
    · subst ha
      exact .inr (.inr ⟨v, exec_wr_cmdAddr v⟩)
    · exact .inr (.inl ⟨a, v, ha, rfl⟩)
  | nop => exact .inr (.inr (hcmd (b := 0x00) rfl))
  | keyexp => exact .inr (.inr (hcmd (b := 0x01) rfl))
  | enc => exact .inr (.inr (hcmd (b := 0x02) rfl))
  | dec => exact .inr (.inr (hcmd (b := 0x03) rfl))

/-- Each of the three answers a next state. -/
theorem exec_next (i : Instr) (s : State) : ∃ t, exec i s = .next t := by
  rcases instr_cases i with ⟨a, rfl⟩ | ⟨a, v, ha, rfl⟩ | ⟨b, hb⟩
  · exact ⟨_, rfl⟩
  · exact ⟨_, exec_wr_of_ne_cmd ha v s⟩
  · rw [hb]
    exact command_next s b

/-- A clock edge with a bus access: the tick, then the instruction on the ports (R45). -/
theorem clockEdge_access {p : Ports} (s : State) (hrst : p.rst = false) (hsel : p.sel = true) :
    clockEdge p s = exec (decodeBus (portsWord p)) { engineTick s with rdata := 0 } := by
  rw [clockEdge, hrst, hsel]
  rfl

/-- Every clock edge answers a next state, in reset or out of it. -/
theorem clockEdge_next (p : Ports) (s : State) : ∃ t, clockEdge p s = .next t := by
  cases hrst : p.rst with
  | true => exact ⟨_, clockEdge_reset s hrst⟩
  | false =>
    cases hsel : p.sel with
    | false => exact ⟨_, clockEdge_idle s hrst hsel⟩
    | true =>
      rw [clockEdge_access s hrst hsel]
      exact exec_next _ _

/-- Settles O10: a step is a clock edge. -/
theorem everyStepAnswersANextState : Obligations.EveryStepAnswersANextState :=
  ⟨exec_next, fun s => clockEdge_next (nextPorts s) (takePorts s)⟩

/-- A command in flight, if there is one, has cycles left, and at most `n` (R23, R178). -/
def DoneWithin (n : Nat) (s : State) : Prop := s.op ≠ .idle → 0 < s.cnt ∧ s.cnt ≤ n

theorem DoneWithin.idle_of_zero {s : State} (h : DoneWithin 0 s) : s.op = .idle := by
  by_contra hop
  obtain ⟨hpos, hle⟩ := h hop
  omega

/-- Each tick brings the end one cycle nearer, and the one at which no cycle is left completes (R178). -/
theorem DoneWithin.engineTick {n : Nat} {s : State} (h : DoneWithin (n + 1) s) : DoneWithin n (engineTick s) := by
  rcases engineTick_cases s with ⟨hop, ht⟩ | ⟨hop, hlt, ht⟩ | ⟨-, -, ht⟩ <;> rw [ht]
  · exact fun hbusy => absurd hop hbusy
  · obtain ⟨-, hle⟩ := h hop
    exact fun _ => ⟨Nat.sub_pos_of_lt hlt, Nat.sub_le_of_le_add hle⟩
  · exact fun hbusy => absurd (complete_op _) hbusy

/-- A cycle that is no reset and no command: the tick, and then the host's buffers and the port (R45, R140). -/
theorem clockEdge_no_command {p : Ports} (hrst : p.rst = false) (hquiet : isCmdWrite p = false) (s : State) :
    ∃ t, clockEdge p s = .next t ∧ BuffersOnly (engineTick s) t := by
  rcases clockEdge_of_not_reset hrst s with ⟨-, hedge⟩ | ⟨hcmd, -⟩
  · exact hedge
  · exact absurd (hcmd.symm.trans hquiet) (by decide)

/-- As many such cycles as the command in flight has left, or more, leave an idle engine (R180). -/
theorem runCycles_idle_of_doneWithin (ps : List Ports) {s : State} (hdone : DoneWithin ps.length s)
    (hreset : noReset ps) (hquiet : ∀ p ∈ ps, isCmdWrite p = false) :
    NextWith (runCycles ps s) fun t => t.op = .idle := by
  induction ps generalizing s with
  | nil => exact ⟨_, runCycles_nil s, hdone.idle_of_zero⟩
  | cons p ps ih =>
    obtain ⟨hrst, hreset⟩ := noReset_cons.mp hreset
    obtain ⟨hp, hquiet⟩ := List.forall_mem_cons.mp hquiet
    obtain ⟨t, hedge, hbuf⟩ := clockEdge_no_command hrst hp { s with inputs := ps }
    have hin : t.inputs = ps := by rw [hbuf, engineTick_inputs_eq]
    have ht : DoneWithin ps.length t := by
      rw [hbuf]
      exact DoneWithin.engineTick (s := { s with inputs := ps }) hdone
    rw [runCycles_cons hedge hin]
    exact ih ht hreset hquiet

/-- Settles O41: the invariant bounds the cycles left by the latency. -/
theorem engineIsQuiescentWithinTheLatency : Obligations.EngineIsQuiescentWithinTheLatency := by
  intro s ps hinv hreset hquiet hlat
  have hdone : DoneWithin ps.length s := fun hop =>
    (hinv.cnt_of_op hop).imp_right fun hcnt => hcnt.trans hlat
  obtain ⟨t, hrun, hidle⟩ := runCycles_idle_of_doneWithin ps hdone hreset hquiet
  exact ⟨t, hrun, decide_eq_true hidle⟩

/-- Settles O42: the loop ends with a read of `STATUS` by an idle engine, `s` itself or `s` with its command
completed. -/
theorem pollTerminates : Obligations.PollTerminates := by
  intro s fuel hfuel hcnt
  have hend {u : State} (hu : u.op = .idle) (hpoll : pollLoop fuel s = some (statusByte u, statusRead u)) :
      ∃ t, pollLoop fuel s = some (statusByte t, t) ∧ (statusByte t).getLsbD 0 = false ∧ quiescent t = true :=
    ⟨statusRead u, hpoll, (statusByte_bit0 _).trans ((busy_eq_false _).mpr hu), decide_eq_true hu⟩
  by_cases hop : s.op = .idle
  · exact hend hop (pollLoop_idle hfuel hop)
  · exact hend (completed_op s) (pollLoop_busy hfuel hop hcnt)

/-- `KEY`, `DIN` and `KEYLEN`, the registers the host writes, are the same (R14 to R16). -/
def SameBuffers (s t : State) : Prop := t.key = s.key ∧ t.din = s.din ∧ t.keylen = s.keylen

/-- Then the bytes the host reads back from them are the same (R141). -/
theorem SameBuffers.readReg_eq {s t : State} (h : SameBuffers s t) {a : Addr} (ha : a.toNat < 0x18 ∨ a = 0x22) :
    readReg t a = readReg s a := by
  obtain ⟨hkey, hdin, hkeylen⟩ := h
  rcases addr_of_readWrite ha with ⟨k, rfl⟩ | ⟨k, rfl⟩ | rfl <;> rw [readReg_addrOf, readReg_addrOf]
  · exact congrArg (·[k.val]) hkey
  · exact congrArg (·[k.val]) hdin
  · exact hkeylen

/-- A cycle outside reset leaves the buffers, or it is a write, and then it is the register write at the address on the
ports that changes them: neither the tick nor a command does (R182). -/
theorem clockEdge_buffers {p : Ports} {s t : State} (hrst : p.rst = false) (h : clockEdge p s = .next t) :
    SameBuffers s t ∨
    (p.sel = true ∧ p.we = true ∧ t = writeReg { engineTick s with rdata := 0 } p.addr p.wdata) := by
  have htick : SameBuffers s (engineTick s) := engineTick_buffers s
  cases hsel : p.sel with
  | false =>
    cases (clockEdge_idle s hrst hsel).symm.trans h
    exact .inl htick
  | true =>
    cases hwe : p.we with
    | false =>
      cases (clockEdge_rd s hrst hsel hwe).symm.trans h
      exact .inl htick
    | true =>
      rw [clockEdge_wr s hrst hsel hwe, execWr_eq] at h
      split at h
      · obtain ⟨-, hkey, hkeylen, hdin, -⟩ := commandKeeps_command h
        obtain ⟨hkey', hdin', hkeylen'⟩ := htick
        exact .inl ⟨hkey.trans hkey', hdin.trans hdin', hkeylen.trans hkeylen'⟩
      · cases h
        exact .inr ⟨rfl, rfl, rfl⟩

/-- Settles O31: where the cycle is a write, the register write changes the one byte at its address. -/
theorem engineNeverWritesHostBuffers : Obligations.EngineNeverWritesHostBuffers := by
  intro s t p ps hin hrst hstep
  have hedge : clockEdge p { s with inputs := ps } = .next t := (step_cons hin).symm.trans hstep
  rcases clockEdge_buffers hrst hedge with hsame | ⟨hsel, hwe, rfl⟩
  · have ⟨hkey, hdin, hkeylen⟩ := hsame
    exact ⟨fun _ => ⟨hkey, hdin⟩, fun _ => hkeylen, fun _ _ _ _ => SameBuffers.readReg_eq (s := s) hsame⟩
  · have htick : SameBuffers s { engineTick { s with inputs := ps } with rdata := 0 } :=
      engineTick_buffers { s with inputs := ps }
    have ⟨hkey, hdin, hkeylen⟩ := htick
    simp only [hsel, hwe, Bool.true_eq_false, false_or]
    refine ⟨fun haddr => ⟨?_, ?_⟩, fun haddr => ?_, fun _ _ b hne hb => ?_⟩
    · exact (writeReg_key_of_le _ _ (by omega)).trans hkey
    · exact (writeReg_din_of_outside _ _ (.inr haddr)).trans hdin
    · exact (writeReg_keylen_of_ne _ _ haddr).trans hkeylen
    · exact (readReg_writeReg_ne _ _ hne).trans (htick.readReg_eq hb)

section ComingCycles
/-! The host's coming cycles are the host's: nothing in a clock edge reads or changes them (R45; log entry 4). -/

theorem readReg_setInputs (s : State) (ps : List Ports) (a : Addr) : readReg { s with inputs := ps } a = readReg s a := by
  unfold readReg
  cases regAt a <;> rfl

theorem writeReg_setInputs (s : State) (ps : List Ports) (a : Addr) (v : Byte) :
    writeReg { s with inputs := ps } a v = { writeReg s a v with inputs := ps } := by
  unfold writeReg
  cases regAt a <;> rfl

/-- Each check of a command reads the same, and so does each command that passes (R143). -/
theorem command_setInputs {s t : State} {v : Byte} (h : command s v = .next t) (ps : List Ports) :
    command { s with inputs := ps } v = .next { t with inputs := ps } := by
  have hexec {b : Byte} {i : Instr} (hb : decodeCmd b = .ok i) := command_of_decodeCmd hb { s with inputs := ps }
  rcases command_cases s v with ⟨hop, hc⟩ | ⟨hop, hv, hc⟩ | ⟨hop, rfl, hc⟩ | ⟨hop, rfl, h10, h16, hc⟩ |
    ⟨hop, rfl, h10, hc⟩ | ⟨hop, rfl, h16, hc⟩ | ⟨hop, hv, hkey, hc⟩ | ⟨hop, rfl, hkey, hc⟩ | ⟨hop, rfl, hkey, hc⟩ <;>
    cases hc.symm.trans h
  · exact command_busy (s := { s with inputs := ps }) hop v
  · exact command_illegal hop hv
  · exact (hexec rfl).trans (exec_nop_idle hop)
  · exact (hexec rfl).trans (exec_keyexp_refused hop h10 h16)
  · exact (hexec rfl).trans (exec_keyexp80_idle hop h10)
  · exact (hexec rfl).trans (exec_keyexp128_idle hop h16)
  · rcases hv with rfl | rfl
    · exact (hexec rfl).trans (exec_enc_refused hop hkey)
    · exact (hexec rfl).trans (exec_dec_refused hop hkey)
  · exact (hexec rfl).trans (exec_enc_idle hop hkey)
  · exact (hexec rfl).trans (exec_dec_idle hop hkey)

/-- So every instruction runs the same. -/
theorem exec_setInputs {i : Instr} {s t : State} (h : exec i s = .next t) (ps : List Ports) :
    exec i { s with inputs := ps } = .next { t with inputs := ps } := by
  rcases instr_cases i with ⟨a, rfl⟩ | ⟨a, v, ha, rfl⟩ | ⟨b, hb⟩
  · cases h
    rw [exec, execRd, readReg_setInputs]
  · cases (exec_wr_of_ne_cmd ha v s).symm.trans h
    rw [exec_wr_of_ne_cmd ha, writeReg_setInputs]
  · rw [hb] at h ⊢
    exact command_setInputs h ps

/-- And so does every clock edge: a reset leaves the coming cycles, and neither the tick nor an access reads them. -/
theorem clockEdge_setInputs {p : Ports} {s t : State} (h : clockEdge p s = .next t) (ps : List Ports) :
    clockEdge p { s with inputs := ps } = .next { t with inputs := ps } := by
  cases hrst : p.rst with
  | true =>
    cases (clockEdge_reset s hrst).symm.trans h
    exact clockEdge_reset _ hrst
  | false =>
    cases hsel : p.sel with
    | false =>
      cases (clockEdge_idle s hrst hsel).symm.trans h
      rw [clockEdge_idle _ hrst hsel, engineTick_inputs]
    | true =>
      rw [clockEdge_access _ hrst hsel] at h ⊢
      rw [engineTick_inputs]
      exact exec_setInputs h ps

end ComingCycles

/-- Settles O56: a cycle driven is the same edge as that cycle pending, whatever is pending after it. -/
theorem pendingCyclesRunAsDriven : Obligations.PendingCyclesRunAsDriven := by
  intro ps
  induction ps with
  | nil =>
    intro s t bytes hdrive
    cases hdrive
    exact runCycles_nil s
  | cons p ps ih =>
    intro s t bytes hdrive
    obtain ⟨u, hedge⟩ := clockEdge_next p s
    cases hrest : drive ps u with
    | none => simp [drive, hedge, hrest] at hdrive
    | some r =>
      cases (drive_cons hedge hrest).symm.trans hdrive
      have hrun : runCycles (p :: ps) s = runCycles ps { u with inputs := ps } :=
        runCycles_cons (clockEdge_setInputs hedge ps) rfl
      exact hrun.trans (ih u _ _ hrest)

end Sys2Proof.Machine
